-- ==== Sys2Proof/Word.lean ====
section
/-! DEFINITION. The value types of the RCM-FSV (00_scope R3, R6; 30_encoding R108). A handle is a slot number (10_state
R22): a plain Nat, 0 is NULL. -/

namespace Sys2Proof

/-- A byte, unsigned 8-bit (R6). -/
abbrev Byte := BitVec 8

/-- The spec's "word": an unsigned 16-bit value (R6). -/
abbrev Half := BitVec 16

/-- A length, capacity or count operand: LEN_W = 32 bits, unsigned (R3, D18). -/
abbrev Len := BitVec 32

/-- An opaque CB or CTX value, compared only for equality (R3, D19).
DESIGN CHOICE (log 20), unsafe only for a claim that counts such values: 64 bits. -/
abbrev Token := BitVec 64

/-- An address of host memory. DESIGN CHOICE (log 3), safe: 64 bits. -/
abbrev Addr := BitVec 64

/-- A byte buffer reference (R108); `none` is NULL (R5). -/
abbrev Ref := Option Addr

end Sys2Proof
end

