-- ==== Sys2Proof/Machine/Bits.lean ====
section
/-! DEFINITION. Byte order and bit fields (00_scope R4, R5; 20_memory R60, R82): each 16-bit value is two bytes, the
less significant one first. -/

namespace Sys2Proof.Machine

/-- `u16le(b0, b1)` (R5): b0 is the low byte. -/
def u16le (b0 b1 : Byte) : Half := b0.setWidth 16 ||| (b1.setWidth 16 <<< 8)

/-- `v[7:0]` (R5, R60). -/
def loByte (v : Half) : Byte := v.extractLsb' 0 8

/-- `v[15:8]` (R5, R60). -/
def hiByte (v : Half) : Byte := v.extractLsb' 8 8

/-- Byte k of a list of bytes. A read past the end answers 0: DESIGN CHOICE (log 19), safe, no rule reaches it. -/
def byteAt (f : List Byte) (k : Nat) : Byte := f.getD k 0#8

/-- The `n` low bytes of `v`, least significant first (R60). -/
def leBytes : Nat → Nat → List Byte
  | 0, _ => []
  | n + 1, v => BitVec.ofNat 8 v :: leBytes n (v / 256)

/-- The value of a list of bytes, least significant first (R60). -/
def leNat : List Byte → Nat
  | [] => 0
  | b :: bs => b.toNat + 256 * leNat bs

end Sys2Proof.Machine
end

