-- ==== Sys2Proof/Config.lean ====
section
/-! DEFINITION. What an implementation fixes (00_scope R3) and the free values of the model. The parameters TABLE8,
TABLE16, FEED_MODE and N_INSTANCES stand in State, so that every statement about every state holds for every value of
them; this file gives their types, what a fresh block takes, and the constants without a body. -/

namespace Sys2Proof

/-- FEED_MODE (R3, D4): whether FEED pushes a whole chunk and then scans, or scans after each byte. -/
inductive FeedMode where
  | bulk
  | perByte
  deriving DecidableEq, Repr

/-- The two checksum ROMs (10_state R32): TABLE8 has 256 bytes, TABLE16 has 256 16-bit words. -/
structure Rom where
  table8 : Vector Byte 256
  table16 : Vector Half 256
  deriving DecidableEq, Repr

/-- FEED_MODE of a fresh block: the spec's default (R3, D4). DESIGN CHOICE (log 6). -/
def Config.feedMode : FeedMode := .bulk

/-- N_INSTANCES of a fresh block (R3). DESIGN CHOICE (log 7): the spec leaves it open, any integer at least 1. -/
def Config.nInstances : Nat := 2

/-- FREE VALUE (log 8): which of the FREE slots CREATE takes (43_parser R210, "which one is a draw"). -/
opaque Config.freeSlot : Nat → Nat

/-- FREE VALUE (log 9): a byte of the output buffer after a failed BUILD (42_builder R185). -/
opaque Config.freeByte : Nat → Byte

end Sys2Proof
end

