-- ==== Sys2Proof/Machine/Consts.lean ====
section
/-! DEFINITION. The block's fixed constants (00_scope R2) and the named values of frame fields (30_encoding R100 to
R102). -/

namespace Sys2Proof.Machine

/-- SOF (R2, R91). -/
def sof : Byte := 0x55#8
/-- CK8_SEED (R2). -/
def ck8Seed : Byte := 0x77#8
/-- CK16_SEED (R2). -/
def ck16Seed : Half := 0x3692#16
/-- RING_CAP (R2). -/
def ringCap : Nat := 4096
/-- MIN_FRAME (R2). -/
def minFrame : Nat := 13
/-- MAX_FRAME (R2). -/
def maxFrame : Nat := 1400
/-- HDR_LEN (R2): the bytes before the payload. -/
def hdrLen : Nat := 11
/-- TRL_LEN (R2): the trailing checksum bytes. -/
def trlLen : Nat := 2
/-- PROTO_VERSION (R2, R98). -/
def protoVersion : Half := 1#16
/-- PUSH_CLASS (R2, R102). -/
def pushClass : Byte := 0x06#8
/-- PUSH_ID (R2, R102). -/
def pushId : Byte := 0x05#8
/-- The id of the handshake enable frame, class 0x06 (R102). -/
def enableId : Byte := 0x24#8
/-- The id of the channel-request frame, class 0x06 (R102). -/
def channelRequestId : Byte := 0x01#8
/-- PUSH_LEN (R2): the payload bytes the decoder needs. -/
def pushLen : Nat := 17
/-- CENTRE (R2): the analog centring offset. -/
def centre : Half := 0x0400#16

/-- The named device types of SENDER_TYPE and RECEIVER_TYPE (R100); data, not behaviour. -/
def deviceAny : BitVec 5 := 0#5
def deviceCamera : BitVec 5 := 1#5
def deviceAppHost : BitVec 5 := 2#5
def deviceFlightController : BitVec 5 := 3#5
def deviceGimbal : BitVec 5 := 4#5
def deviceRemoteController : BitVec 5 := 6#5
def deviceWorkstation : BitVec 5 := 10#5

/-- PACK_TYPE codes (R101). -/
def packRequest : BitVec 1 := 0#1
def packResponse : BitVec 1 := 1#1
/-- ACK codes with a name (R101). -/
def ackNone : BitVec 2 := 0#2
def ackAfterExec : BitVec 2 := 2#2

end Sys2Proof.Machine
end

