-- ==== Sys2Proof/Machine/Kernels.lean ====
section
/-! DEFINITION. The checksum kernels (40_checksum R140, R141), for any tables. -/

namespace Sys2Proof.Machine

/-- One byte of CK8 (R140): `s <- TABLE8[(s ^ b) & 0xFF]`. -/
def ck8Step (rom : Rom) (s b : Byte) : Byte :=
  rom.table8[(s ^^^ b).toNat]'((s ^^^ b).isLt)

/-- The fold of R140 from a given start value. -/
def ck8From (rom : Rom) (s : Byte) (bytes : List Byte) : Byte := bytes.foldl (ck8Step rom) s

/-- CK8(bytes) (R140). -/
def ck8 (rom : Rom) (bytes : List Byte) : Byte := ck8From rom ck8Seed bytes

/-- One byte of CK16 (R141): `s <- TABLE16[(s ^ zext_16(b)) & 0xFF] ^ (s >> 8)`. -/
def ck16Step (rom : Rom) (s : Half) (b : Byte) : Half :=
  rom.table16[((s ^^^ b.setWidth 16).setWidth 8).toNat]'(((s ^^^ b.setWidth 16).setWidth 8).isLt) ^^^ (s >>> 8)

/-- The fold of R141 from a given start value. -/
def ck16From (rom : Rom) (s : Half) (bytes : List Byte) : Half := bytes.foldl (ck16Step rom) s

/-- CK16(bytes) (R141). -/
def ck16 (rom : Rom) (bytes : List Byte) : Half := ck16From rom ck16Seed bytes

end Sys2Proof.Machine
end

