-- ==== Sys2Proof/Machine/Frame.lean ====
section
/-! DEFINITION. The frame wire format (30_encoding R90 to R102): the fields of a frame, and the serialisation of
42_builder R183. -/

namespace Sys2Proof.Machine

/-! ### Reading the fields of a frame (R90) -/

/-- LENVER, bytes 1..2 (R92). -/
def lenVerOf (f : List Byte) : Half := u16le (byteAt f 1) (byteAt f 2)
/-- LEN = LENVER[9:0] (R92, R113). -/
def lenOf (f : List Byte) : Nat := (lenVerOf f &&& 0x03FF#16).toNat
/-- VER = LENVER[15:10] (R92). -/
def verOf (f : List Byte) : BitVec 6 := (lenVerOf f).extractLsb' 10 6
/-- HCK, byte 3 (R93). -/
def hckOf (f : List Byte) : Byte := byteAt f 3
/-- SENDER_TYPE, byte 4 bits 4:0 (R94). -/
def senderTypeOf (f : List Byte) : BitVec 5 := (byteAt f 4).extractLsb' 0 5
/-- SENDER_INDEX, byte 4 bits 7:5 (R94). -/
def senderIndexOf (f : List Byte) : BitVec 3 := (byteAt f 4).extractLsb' 5 3
/-- RECEIVER_TYPE, byte 5 bits 4:0 (R94). -/
def receiverTypeOf (f : List Byte) : BitVec 5 := (byteAt f 5).extractLsb' 0 5
/-- RECEIVER_INDEX, byte 5 bits 7:5 (R94). -/
def receiverIndexOf (f : List Byte) : BitVec 3 := (byteAt f 5).extractLsb' 5 3
/-- SEQ, bytes 6..7 (R95). -/
def seqOf (f : List Byte) : Half := u16le (byteAt f 6) (byteAt f 7)
/-- PACK_TYPE, byte 8 bit 7 (R96). -/
def packTypeOf (f : List Byte) : BitVec 1 := (byteAt f 8).extractLsb' 7 1
/-- ACK, byte 8 bits 6:5 (R96). -/
def ackOf (f : List Byte) : BitVec 2 := (byteAt f 8).extractLsb' 5 2
/-- The reserved bits 4:3 of byte 8 (R90, R114). -/
def reservedOf (f : List Byte) : BitVec 2 := (byteAt f 8).extractLsb' 3 2
/-- ENCRYPTION, byte 8 bits 2:0 (R96). -/
def encryptionOf (f : List Byte) : BitVec 3 := (byteAt f 8).extractLsb' 0 3
/-- CLASS, byte 9 (R97). -/
def classOf (f : List Byte) : Byte := byteAt f 9
/-- ID, byte 10 (R97). -/
def idOf (f : List Byte) : Byte := byteAt f 10
/-- The dispatch key K = (CLASS << 8) | ID (R112). -/
def keyOf (f : List Byte) : Half := u16le (idOf f) (classOf f)
/-- PAYLOAD, bytes 11..L-3 of a frame of L bytes (R97). -/
def payloadOf (f : List Byte) : List Byte := (f.drop hdrLen).take (f.length - hdrLen - trlLen)
/-- The bytes the frame checksum covers, 0..L-3 (R97, R229). -/
def checkedOf (f : List Byte) : List Byte := f.take (f.length - trlLen)
/-- FCK, bytes L-2..L-1 (R97). -/
def fckOf (f : List Byte) : Half := u16le (byteAt f (f.length - 2)) (byteAt f (f.length - 1))

/-! ### Writing a frame (R183) -/

/-- The field operands of BUILD (R180). -/
structure BuildFields where
  st : Byte
  si : Byte
  rt : Byte
  ri : Byte
  seq : Half
  pt : Byte
  ack : Byte
  enc : Byte
  cls : Byte
  mid : Byte
  deriving DecidableEq, Repr

/-- The total length L = 11 + n + 2 of a frame with n payload bytes, exact (R182). -/
def frameLength (n : Nat) : Nat := hdrLen + n + trlLen

/-- LENVER as the builder computes it: `(L & 0x03FF) | (PROTO_VERSION << 10)` (R92, R183). -/
def lenVer (l : Nat) : Half := (BitVec.ofNat 16 l &&& 0x03FF#16) ||| (protoVersion <<< 10)

/-- Byte 4 or 5: `(type & 0x1F) | ((index & 0x07) << 5)` (R94). -/
def routingByte (type index : Byte) : Byte := (type &&& 0x1F#8) ||| ((index &&& 0x07#8) <<< 5)

/-- Byte 8: `((pt & 1) << 7) | ((ack & 0x03) << 5) | (enc & 0x07)` (R96). -/
def packByte (pt ack enc : Byte) : Byte :=
  ((pt &&& 1#8) <<< 7) ||| ((ack &&& 0x03#8) <<< 5) ||| (enc &&& 0x07#8)

/-- Bytes 0..2 of a frame of L bytes (R91, R92). -/
def headerBytes (l : Nat) : List Byte := [sof, loByte (lenVer l), hiByte (lenVer l)]

/-- Bytes 0..L-3 of the frame that BUILD writes (R183). -/
def frameBody (rom : Rom) (q : BuildFields) (pay : List Byte) : List Byte :=
  headerBytes (frameLength pay.length) ++
  [ck8 rom (headerBytes (frameLength pay.length)), routingByte q.st q.si, routingByte q.rt q.ri, loByte q.seq,
   hiByte q.seq, packByte q.pt q.ack q.enc, q.cls, q.mid] ++ pay

/-- The frame that BUILD writes (R183): the body, then its CK16, low byte first. -/
def buildFrame (rom : Rom) (q : BuildFields) (pay : List Byte) : List Byte :=
  frameBody rom q pay ++ [loByte (ck16 rom (frameBody rom q pay)), hiByte (ck16 rom (frameBody rom q pay))]

end Sys2Proof.Machine
end

