-- ==== Sys2Proof/Machine/State.lean ====
section
/-! DEFINITION. The state of the RCM-FSV (10_state), as plain data, and the state at power-on (70_reset R310). -/

namespace Sys2Proof.Machine

/-- A byte memory: a list of (address, byte) cells, addresses strictly rising, no cell of value 0. An address that is
not listed reads 0: DESIGN CHOICE (log 4 for host memory, log 11 for RING), unsafe. -/
abbrev Memory := List Host.Cell

/-- STATE, the scanner state (10_state R25). -/
inductive ScanState where
  | seekingStart
  | accumulatingFrame
  deriving DecidableEq, Repr

/-- One instance slot: its LIVE field and the registers of 10_state R22 to R30. -/
structure Slot where
  /-- LIVE: `true` is LIVE, `false` is FREE (R22). -/
  live : Bool
  /-- CB (R23); `none` is NULL. -/
  cb : Option Token
  /-- CTX (R24); `none` is NULL. -/
  ctx : Option Token
  /-- STATE (R25). -/
  scan : ScanState
  /-- EXPLEN (R26). -/
  expLen : BitVec 11
  /-- HEAD, the write position (R27). -/
  head : BitVec 12
  /-- COUNT, the number of valid bytes (R28). -/
  count : BitVec 13
  /-- RING, by physical index 0..4095 (R30). -/
  ring : Memory
  deriving DecidableEq, Repr

/-- FlightMode (10_state R34). -/
inductive FlightMode where
  | sport
  | normal
  | tripod
  | unknown
  deriving DecidableEq, Repr

/-- A snapshot (10_state R33); signed fields are two's complement (R6). -/
structure Snapshot where
  pause : Bool
  gohome : Bool
  shutter : Bool
  record : Bool
  custom1 : Bool
  custom2 : Bool
  custom3 : Bool
  up : Bool
  down : Bool
  left : Bool
  right : Bool
  centre : Bool
  flightMode : FlightMode
  rightH : BitVec 16
  rightV : BitVec 16
  leftH : BitVec 16
  leftV : BitVec 16
  leftWheel : BitVec 16
  rightWheel : BitVec 16
  rightWheelInc : BitVec 8
  deriving DecidableEq, Repr

/-- A snapshot event (10_state R35, 43_parser R236). -/
structure Event where
  handle : Nat
  cb : Option Token
  ctx : Option Token
  snapshot : Snapshot
  deriving DecidableEq, Repr

/-- The status codes a command returns (60_exceptions R270). -/
inductive Status where
  | ok
  | shortPayload
  | invalidArgument
  | allocationFailed
  deriving DecidableEq, Repr

/-- The drop reasons (60_exceptions R274). -/
inductive DropReason where
  | notSof
  | hdrCk
  | lenRange
  | frameCk
  | notPush
  | shortPush
  deriving DecidableEq, Repr

/-- The model fault reasons that FAULTS holds (60_exceptions R280). -/
inductive FaultReason where
  | illegalCommand
  | invalidHandle
  | buildOverlap
  | sharedInstance
  | reentrantCommand
  deriving DecidableEq, Repr

/-- What a response with a status carries (30_encoding R111). -/
inductive Value where
  /-- Nothing: a failure status carries no other value (R270). -/
  | none
  /-- CK8's value. -/
  | byte (v : Byte)
  /-- CK16's value. -/
  | word (v : Half)
  /-- DECODE's snapshot. -/
  | snapshot (v : Snapshot)
  /-- BUILD's length L. -/
  | length (v : Len)
  /-- CREATE's handle; 0 is NULL. -/
  | handle (v : Nat)
  deriving DecidableEq, Repr

/-- The response of a command (30_encoding R111). -/
inductive Response where
  /-- CK8, CK16, DECODE, BUILD, CREATE. -/
  | status (code : Status) (value : Value)
  /-- FEED: the count of events appended. -/
  | delivered (count : Len)
  /-- RESET, DESTROY: a response with no content. -/
  | done
  deriving DecidableEq, Repr

/-- How the host side issued a command: the issue pattern of 60_exceptions R280. DESIGN CHOICE (log 15), safe. -/
inductive Issue where
  /-- After the response of the command before it, by the one host of its instance (R63). -/
  | serial
  /-- By another host, while a command on instance `busy` has not responded (20_memory R77). -/
  | concurrent (busy : Nat)
  /-- Between an event's delivery and the response of the FEED that delivered it (60_exceptions R283). -/
  | nested
  deriving DecidableEq, Repr

/-- A command that was issued and that the block has not taken yet. -/
structure HostCommand where
  issue : Issue
  bytes : List Byte
  deriving DecidableEq, Repr

/-- The machine state. -/
structure State where
  /-- TABLE8 and TABLE16 (10_state R32). -/
  rom : Rom
  /-- FEED_MODE (00_scope R3). -/
  feedMode : FeedMode
  /-- The slots 1..N_INSTANCES (10_state R22): slot h is entry h - 1, and N_INSTANCES is the length. -/
  slots : List Slot
  /-- Host memory, which holds every host buffer (20_memory R62, R70). -/
  mem : Memory
  /-- The issued commands the block has not taken yet, oldest first (20_memory R63; log 1). -/
  queue : List HostCommand
  /-- The responses given, oldest first (30_encoding R111; log 22). -/
  responses : List Response
  /-- EVENTS, oldest first (10_state R35). -/
  events : List Event
  /-- The trace of drop labels, oldest first (60_exceptions R274; log 21). Nothing reads it. -/
  drops : List (Nat × DropReason)
  /-- FAULTS (10_state R36): a set, kept as a list without repeats (log 27). -/
  faults : List FaultReason
  /-- The model's own: how many free values were drawn (log 10). -/
  draws : Nat
  deriving DecidableEq, Repr

/-- Why a step stops. -/
inductive Fault where
  /-- Raised by `step` alone, in a state whose FAULTS is not empty: no command has a step there (60_exceptions R281).
  Safe: the spec gives such a state no further step. -/
  | quiescent
  deriving DecidableEq, Repr

/-- Why an instruction has no meaning. -/
inductive Refusal where
  /-- Raised by no arm of `exec`: every row of the opcode table has its meaning. Safe. -/
  | notModelled (mnemonic : String)
  deriving DecidableEq, Repr

/-- A FREE slot at power-on (70_reset R310): its registers are meaningless. DESIGN CHOICE (log 11, log 12), unsafe for a
claim about the registers of a FREE slot: NULL, SEEKING_START, zeros, no ring byte listed. -/
def Slot.free : Slot where
  live := false
  cb := none
  ctx := none
  scan := .seekingStart
  expLen := 0#11
  head := 0#12
  count := 0#13
  ring := []

/-- Power-on (70_reset R310): every slot FREE, EVENTS and FAULTS empty, the ROMs valid. -/
def State.reset : State where
  rom := romDefault
  feedMode := Config.feedMode
  slots := List.replicate Config.nInstances Slot.free
  mem := []
  queue := []
  responses := []
  events := []
  drops := []
  faults := []
  draws := 0

end Sys2Proof.Machine
end

