-- ==== Sys2Proof/Machine/Flags.lean ====
section
/-! DEFINITION. The block's only flag is STATE (10_state R25, R40), and the numeric codes of the spec's enumerations
(R34; 60_exceptions R270, R274). -/

namespace Sys2Proof.Machine

/-- The 1-bit encoding of STATE (R25). -/
def ScanState.bit : ScanState → BitVec 1
  | .seekingStart => 0#1
  | .accumulatingFrame => 1#1

/-- `STATE <- SEEKING_START` (R25, 43_parser R228). -/
def Slot.seek (p : Slot) : Slot := { p with scan := .seekingStart }

/-- `EXPLEN <- LEN; STATE <- ACCUMULATING_FRAME` (43_parser R226). -/
def Slot.latch (p : Slot) (len : Nat) : Slot :=
  { p with expLen := BitVec.ofNat 11 len, scan := .accumulatingFrame }

/-- FlightMode numbering (R34). -/
def FlightMode.code : FlightMode → BitVec 2
  | .sport => 0#2
  | .normal => 1#2
  | .tripod => 2#2
  | .unknown => 3#2

/-- FlightMode(v) (R34, 30_encoding R107). -/
def FlightMode.ofBits (v : BitVec 2) : FlightMode :=
  if v = 0#2 then .sport else if v = 1#2 then .normal else if v = 2#2 then .tripod else .unknown

/-- Status codes (R270). -/
def Status.code : Status → Nat
  | .ok => 0
  | .shortPayload => 1
  | .invalidArgument => 2
  | .allocationFailed => 3

/-- Drop reason codes (R274). -/
def DropReason.code : DropReason → Nat
  | .notSof => 1
  | .hdrCk => 2
  | .lenRange => 3
  | .frameCk => 4
  | .notPush => 5
  | .shortPush => 6

end Sys2Proof.Machine
end

