-- ==== Sys2Proof/Machine/Ops.lean ====
section
/-! DEFINITION. The named operations over memory, slots, rings and the state; recording a model fault, the block's only
exceptional change of state (60_exceptions R280), stands here as one shared operation. The block has no trap, so there is
no entry that saves registers and no return (R277, R278). -/

namespace Sys2Proof.Machine

/-! ### Byte memory -/

/-- The byte at an address; an address that is not listed reads 0 (log 4, log 11). -/
def Memory.read : Memory → Nat → Byte
  | [], _ => 0#8
  | (k, b) :: m, a => if k = a then b else Memory.read m a

/-- Put a cell in front, or leave it out where its value is what an unlisted address reads. -/
def Memory.cons (a : Nat) (b : Byte) (m : Memory) : Memory := if b = 0#8 then m else (a, b) :: m

/-- Write one byte, keeping the cells sorted and none of value 0. -/
def Memory.write : Memory → Nat → Byte → Memory
  | [], a, b => Memory.cons a b []
  | (k, c) :: m, a, b =>
    if a < k then Memory.cons a b ((k, c) :: m)
    else if a = k then Memory.cons a b m
    else (k, c) :: Memory.write m a b

/-- The canonical form from address `lo` on: addresses rising strictly, no cell of value 0. -/
def Memory.wfFrom : Nat → Memory → Bool
  | _, [] => true
  | lo, (k, b) :: m => decide (lo ≤ k) && b != 0#8 && Memory.wfFrom (k + 1) m

/-- The canonical form. -/
def Memory.wf (m : Memory) : Bool := Memory.wfFrom 0 m

/-- `MemRead` (00_scope R5): `n` bytes from address `a`, in address order. Addresses do not wrap (log 3). -/
def Memory.readBytes (m : Memory) (a n : Nat) : List Byte := (List.range n).map (fun i => Memory.read m (a + i))

/-- `MemWrite` (00_scope R5): a list of bytes from address `a` on. -/
def Memory.writeBytes : Memory → Nat → List Byte → Memory
  | m, _, [] => m
  | m, a, b :: bs => Memory.writeBytes (Memory.write m a b) (a + 1) bs

/-! ### The ring of a slot -/

/-- START = (HEAD - COUNT) mod 4096, the physical index of logical position 0 (10_state R29). -/
def Slot.start (p : Slot) : BitVec 12 := p.head - p.count.setWidth 12

/-- The physical index of logical position `i` (20_memory R65). -/
def Slot.physical (p : Slot) (i : Nat) : Nat := (p.start.toNat + i) % ringCap

/-- `Ring[i]` (20_memory R65). -/
def Slot.ringAt (p : Slot) (i : Nat) : Byte := Memory.read p.ring (p.physical i)

/-- `RingPush(b)` (20_memory R66): at COUNT = 4096 the oldest byte is overwritten. -/
def Slot.push (p : Slot) (b : Byte) : Slot :=
  { p with
    ring := Memory.write p.ring p.head.toNat b
    head := p.head + 1#12
    count := if p.count.toNat < ringCap then p.count + 1#13 else p.count }

/-- `RingPush` of each byte in order. -/
def Slot.pushAll (p : Slot) (bs : List Byte) : Slot := bs.foldl Slot.push p

/-- `RingDiscard(n)` (20_memory R67). -/
def Slot.discard (p : Slot) (n : Nat) : Slot := { p with count := p.count - BitVec.ofNat 13 n }

/-- `RingCopy(L)` (20_memory R68). -/
def Slot.copy (p : Slot) (l : Nat) : List Byte := (List.range l).map p.ringAt

/-- The logical contents Ring[0..COUNT-1], oldest byte first (20_memory R65). -/
def Slot.contents (p : Slot) : List Byte := p.copy p.count.toNat

/-! ### The lifecycle writes of a slot -/

/-- STATE, EXPLEN, HEAD and COUNT to their initial values (43_parser R210, R218). RING keeps its bytes (10_state R30). -/
def Slot.clear (p : Slot) : Slot :=
  { p with scan := .seekingStart, expLen := 0#11, head := 0#12, count := 0#13 }

/-- A slot as CREATE sets it up (43_parser R210, 70_reset R311). The contents of RING are unspecified and unobservable:
they stay as they were (log 11). -/
def Slot.create (p : Slot) (cb ctx : Option Token) : Slot :=
  Slot.clear { p with live := true, cb := cb, ctx := ctx }

/-- `LIVE <- FREE` (43_parser R219); the other registers become meaningless and stay as they were (log 12). -/
def Slot.release (p : Slot) : Slot := { p with live := false }

/-! ### Slots and handles (10_state R22) -/

/-- N_INSTANCES (00_scope R3). -/
def State.nInstances (s : State) : Nat := s.slots.length

/-- The slot that a handle names, none for NULL and for a number above N_INSTANCES. -/
def State.slot? (s : State) : Nat → Option Slot
  | 0 => none
  | k + 1 => s.slots[k]?

/-- The slot that a handle names, where it is LIVE. -/
def State.liveSlot? (s : State) (h : Nat) : Option Slot := (s.slot? h).filter (·.live)

/-- The handles of the FREE slots. -/
def State.freeHandles (s : State) : List Nat :=
  (List.range' 1 s.slots.length).filter (fun h => (s.slot? h).any (fun p => !p.live))

/-- Change the slot that a handle names. -/
def State.updateSlot (s : State) (h : Nat) (g : Slot → Slot) : State :=
  match h with
  | 0 => s
  | k + 1 => { s with slots := s.slots.modify k g }

/-! ### What a command gives the outside -/

/-- Give the command its response (30_encoding R111). -/
def State.respond (s : State) (r : Response) : State := { s with responses := s.responses ++ [r] }

/-- A response with a status (60_exceptions R270). -/
def State.answer (s : State) (c : Status) (v : Value) : State := s.respond (.status c v)

/-- `raise E` (00_scope R5): the command ends with a failure status and nothing else (60_exceptions R270, R277). -/
def State.raise (s : State) (c : Status) : State := s.answer c .none

/-- Record a model fault (60_exceptions R280): its reason joins FAULTS, nothing else changes, there is no response. -/
def State.recordFault (s : State) (r : FaultReason) : State :=
  { s with faults := if r ∈ s.faults then s.faults else s.faults ++ [r] }

/-- What a scanner step that disposes of bytes says: a frame accepted, or bytes dropped. -/
inductive Label where
  | accepted (v : Snapshot)
  | dropped (r : DropReason)
  deriving DecidableEq, Repr

/-- The snapshot of an accept step. -/
def Label.snapshot? : Label → Option Snapshot
  | .accepted v => some v
  | .dropped _ => none

/-- The reason of a drop. -/
def Label.reason? : Label → Option DropReason
  | .accepted _ => none
  | .dropped r => some r

/-- The snapshots accepted, in order. -/
def snapshotsOf (ls : List Label) : List Snapshot := ls.filterMap Label.snapshot?

/-- The drop reasons, in order. -/
def reasonsOf (ls : List Label) : List DropReason := ls.filterMap Label.reason?

/-- The event of instance `h` for a snapshot: (h, CB, CTX, snapshot) (43_parser R236). -/
def Slot.event (p : Slot) (h : Nat) (v : Snapshot) : Event := ⟨h, p.cb, p.ctx, v⟩

/-- Append the events (43_parser R236) and the drop labels (60_exceptions R274) of scanner steps of instance `h`, whose
bindings are those of `p`. -/
def State.deliver (s : State) (h : Nat) (p : Slot) (ls : List Label) : State :=
  { s with
    events := s.events ++ (snapshotsOf ls).map (p.event h)
    drops := s.drops ++ (reasonsOf ls).map (fun r => (h, r)) }

/-- Write host memory (20_memory R70). -/
def State.store (s : State) (a : Nat) (bs : List Byte) : State :=
  { s with mem := Memory.writeBytes s.mem a bs }

/-- Count `n` free values as drawn (log 10). -/
def State.drawn (s : State) (n : Nat) : State := { s with draws := s.draws + n }

end Sys2Proof.Machine
end

