-- ==== Sys2Proof/Machine/Operands.lean ====
section
/-! DEFINITION. Every operand form of 30_encoding R108: buffer references that may be NULL, lengths, handles, and the
free values that stand for what the spec leaves open. -/

namespace Sys2Proof.Machine

/-- `MemRead(buf, 0, n)` (20_memory R70); a NULL buffer is never read. -/
def State.readBuffer (s : State) (buf : Ref) (n : Nat) : List Byte :=
  match buf with
  | none => []
  | some a => Memory.readBytes s.mem a.toNat n

/-- A NULL buffer with a length above 0: the operand that CK8, CK16 and BUILD refuse (40_checksum R145, R146, 42_builder
R181). -/
def nullWithLength (buf : Ref) (n : Len) : Bool := buf.isNone && decide (0 < n.toNat)

/-- Whether `out[0..cap-1]` and `pay[0..n-1]` share a byte (20_memory R80). DEDUCED (log 28), safe: NULL buffers and empty
ranges share none. -/
def overlaps (out : Ref) (cap : Len) (pay : Ref) (n : Len) : Bool :=
  match out, pay with
  | some o, some p =>
    decide (0 < cap.toNat) && decide (0 < n.toNat) &&
      decide (o.toNat < p.toNat + n.toNat) && decide (p.toNat < o.toNat + cap.toNat)
  | none, _ => false
  | some _, none => false

/-- The handle of the FREE slot that CREATE takes, none if every slot is LIVE (43_parser R210, R211). Which one is a FREE
VALUE (log 8). -/
def State.chooseSlot (s : State) : Option Nat :=
  s.freeHandles[Config.freeSlot s.draws % s.freeHandles.length]?

/-- `n` free bytes (42_builder R185; log 9). -/
def State.freeBytes (s : State) (n : Nat) : List Byte :=
  (List.range n).map (fun k => Config.freeByte (s.draws + k))

end Sys2Proof.Machine
end

