-- ==== Sys2Proof/Machine/Builder.lean ====
section
/-! DEFINITION. The command BUILD (42_builder R180 to R189). -/

namespace Sys2Proof.Machine

/-- Whether BUILD raises INVALID_ARGUMENT (R181); L is exact (R182). -/
def buildInvalid (out : Ref) (cap : Len) (pay : Ref) (n : Len) : Bool :=
  out.isNone || nullWithLength pay n || decide (maxFrame < frameLength n.toNat) ||
    decide (cap.toNat < frameLength n.toNat)

/-- A BUILD that failed (R185): `out[0..cap-1]` holds free bytes; nothing is written where out is NULL. -/
def State.scribble (s : State) (out : Ref) (cap : Len) : State :=
  match out with
  | none => s
  | some o => (s.store o.toNat (s.freeBytes cap.toNat)).drawn cap.toNat

/-- A BUILD that passed validation (R183): the frame at `out[0..L-1]`. -/
def State.writeFrame (s : State) (out : Ref) (frame : List Byte) : State :=
  match out with
  | none => s
  | some o => s.store o.toNat frame

/-- BUILD (R180). An overlap comes before validation (60_exceptions R276). -/
def execBuild (out : Ref) (cap : Len) (st si rt ri : Byte) (seq : Half) (pt ack enc cls mid : Byte) (pay : Ref)
    (n : Len) (s : State) : Host.Outcome State Fault Refusal :=
  if overlaps out cap pay n then .next (s.recordFault .buildOverlap)
  else if buildInvalid out cap pay n then .next ((s.scribble out cap).raise .invalidArgument)
  else
    .next ((s.writeFrame out (buildFrame s.rom ⟨st, si, rt, ri, seq, pt, ack, enc, cls, mid⟩
      (s.readBuffer pay n.toNat))).answer .ok (.length (BitVec.ofNat 32 (frameLength n.toNat))))

end Sys2Proof.Machine
end

