-- ==== Sys2Proof/Machine/Checksum.lean ====
section
/-! DEFINITION. The commands CK8 and CK16 (40_checksum R145, R146). -/

namespace Sys2Proof.Machine

/-- CK8 in, n (R145). -/
def execCk8 (buf : Ref) (n : Len) (s : State) : Host.Outcome State Fault Refusal :=
  if nullWithLength buf n then .next (s.raise .invalidArgument)
  else .next (s.answer .ok (.byte (ck8 s.rom (s.readBuffer buf n.toNat))))

/-- CK16 in, n (R146). -/
def execCk16 (buf : Ref) (n : Len) (s : State) : Host.Outcome State Fault Refusal :=
  if nullWithLength buf n then .next (s.raise .invalidArgument)
  else .next (s.answer .ok (.word (ck16 s.rom (s.readBuffer buf n.toNat))))

end Sys2Proof.Machine
end

