-- ==== Sys2Proof/Syntax.lean ====
section
/-! DEFINITION. The instructions: one constructor for each row of the opcode table. The first eight are the host's
commands (30_encoding R109); the last four are the rows of the message dispatch (30_encoding R112), each with the
instance it is dispatched for and the candidate frame it is read from. -/

namespace Sys2Proof

/-- The instructions of the RCM-FSV, operands in the order of R109. -/
inductive Instr where
  /-- CK8 in, n (40_checksum R145). -/
  | ck8 (buf : Ref) (n : Len)
  /-- CK16 in, n (40_checksum R146). -/
  | ck16 (buf : Ref) (n : Len)
  /-- DECODE in, n (41_decoder R150). -/
  | decode (buf : Ref) (n : Len)
  /-- BUILD out, cap, st, si, rt, ri, seq, pt, ack, enc, cls, mid, pay, n (42_builder R180). -/
  | build (out : Ref) (cap : Len) (st si rt ri : Byte) (seq : Half) (pt ack enc cls mid : Byte) (pay : Ref) (n : Len)
  /-- CREATE cb, ctx (43_parser R210); `none` is NULL. -/
  | create (cb ctx : Option Token)
  /-- FEED h, in, n (43_parser R212). -/
  | feed (h : Nat) (buf : Ref) (n : Len)
  /-- RESET h (43_parser R218). -/
  | reset (h : Nat)
  /-- DESTROY h (43_parser R219). -/
  | destroy (h : Nat)
  /-- Key 0x0605: a push frame of instance h (43_parser R231, R232). -/
  | rcPush (h : Nat) (f : List Byte)
  /-- Key 0x0624: a handshake enable frame of instance h (43_parser R230). -/
  | enable (h : Nat) (f : List Byte)
  /-- Key 0x0601: a handshake channel-request frame of instance h (43_parser R230). -/
  | channelRequest (h : Nat) (f : List Byte)
  /-- Any other key (43_parser R230). -/
  | other (h : Nat) (f : List Byte)
  deriving DecidableEq, Repr

end Sys2Proof
end

