-- ==== Sys2Proof/WellFormed.lean ====
section
/-! DEFINITION. Which instructions an encoding can stand for: a handle operand fits its four bytes (log 2), and a
frame-dispatch instruction holds a frame of a legal length (30_encoding R90) with the key of its row (R112). -/

namespace Sys2Proof

/-- A handle fits the four bytes of its operand (log 2). -/
def handleFits (h : Nat) : Bool := h < 2 ^ 32

/-- A candidate frame has 13 to 1400 bytes (R90). -/
def frameFits (f : List Byte) : Bool := 13 ≤ f.length && f.length ≤ 1400

/-- The dispatch rows with a key of their own (R102, R112). -/
def namedKeys : List Half := [0x0605#16, 0x0624#16, 0x0601#16]

/-- Well-formedness of an instruction; every check is one of the three above. -/
def WellFormed : Instr → Bool
  | .ck8 _ _ => true
  | .ck16 _ _ => true
  | .decode _ _ => true
  | .build _ _ _ _ _ _ _ _ _ _ _ _ _ _ => true
  | .create _ _ => true
  | .feed h _ _ => handleFits h
  | .reset h => handleFits h
  | .destroy h => handleFits h
  | .rcPush _ f => frameFits f && Machine.keyOf f == 0x0605#16
  | .enable _ f => frameFits f && Machine.keyOf f == 0x0624#16
  | .channelRequest _ f => frameFits f && Machine.keyOf f == 0x0601#16
  | .other _ f => frameFits f && !namedKeys.contains (Machine.keyOf f)

end Sys2Proof
end

