-- ==== Sys2Proof/Decode.lean ====
section
/-! DEFINITION. Decoding, total on any bytes and rejecting by name, and after it the encoder.

A command is its CODE byte (30_encoding R109) followed by its operands in the order of R109. DESIGN CHOICE (log 2),
safe: multi-byte operands are little-endian (R60); LEN_W operands take 4 bytes, 8- and 16-bit fields 1 and 2, a
handle 4; a buffer reference, CB or CTX takes 9, a presence byte (0 NULL, 1 a value) and 8 value bytes, all 0 for NULL.
A frame-dispatch instruction is read from the candidate frame by its key (R112). -/

namespace Sys2Proof

open Machine

/-- Why bytes are no instruction. -/
inductive DecodeError where
  /-- There is no CODE byte. -/
  | noCode
  /-- CODE is not in the table of R109 (R110). -/
  | unassignedCode
  /-- The operand list is too short (R282). -/
  | missingOperand
  /-- The operand list is too long (R282). -/
  | extraOperand
  /-- A presence byte above 1, or a NULL with value bytes that are not 0 (log 2). -/
  | badPresence
  /-- A candidate frame whose length is outside 13..1400 (R90). -/
  | frameLength
  deriving DecidableEq, Repr

/-- The assigned command codes (R109). -/
inductive Opcode where
  | ck8 | ck16 | decode | build | create | feed | reset | destroy
  deriving DecidableEq, Repr

/-- CODE of each command (R109). -/
def Opcode.code : Opcode → Byte
  | .ck8 => 0x01#8
  | .ck16 => 0x02#8
  | .decode => 0x10#8
  | .build => 0x20#8
  | .create => 0x30#8
  | .feed => 0x31#8
  | .reset => 0x32#8
  | .destroy => 0x33#8

/-- Every assigned command. -/
def Opcode.all : List Opcode := [.ck8, .ck16, .decode, .build, .create, .feed, .reset, .destroy]

/-- The command a CODE byte names, none where the code is not assigned (R110). -/
def Opcode.ofByte? (b : Byte) : Option Opcode := Opcode.all.find? (fun o => o.code == b)

/-- How many operand bytes a command has (log 2). -/
def Opcode.operandLength : Opcode → Nat
  | .ck8 => 13
  | .ck16 => 13
  | .decode => 13
  | .build => 37
  | .create => 18
  | .feed => 17
  | .reset => 4
  | .destroy => 4

/-- The first `n` bytes as a number, least significant byte first (R60). -/
def takeNat (n : Nat) (bs : List Byte) : Except DecodeError (Nat × List Byte) :=
  if bs.length < n then .error .missingOperand else .ok (leNat (bs.take n), bs.drop n)

/-- A `w`-bit operand of `n` bytes. -/
def takeBits (n w : Nat) (bs : List Byte) : Except DecodeError (BitVec w × List Byte) := do
  let (v, bs) ← takeNat n bs
  return (BitVec.ofNat w v, bs)

/-- An operand that may be NULL: a presence byte and eight value bytes (log 2). -/
def takeOptional (bs : List Byte) : Except DecodeError (Option (BitVec 64) × List Byte) := do
  let (p, bs) ← takeNat 1 bs
  let (v, bs) ← takeNat 8 bs
  if p = 1 then return (some (BitVec.ofNat 64 v), bs)
  else if p = 0 ∧ v = 0 then return (none, bs)
  else .error .badPresence

/-- The operands of CK8, CK16 and DECODE: in, n (R109). -/
def takeBuffer (bs : List Byte) : Except DecodeError ((Ref × Len) × List Byte) := do
  let (buf, bs) ← takeOptional bs
  let (n, bs) ← takeBits 4 32 bs
  return ((buf, n), bs)

/-- The operand list of a command, in the order of R109. -/
def takeOperands (o : Opcode) (bs : List Byte) : Except DecodeError (Instr × List Byte) :=
  match o with
  | .ck8 => do
    let ((buf, n), bs) ← takeBuffer bs
    return (.ck8 buf n, bs)
  | .ck16 => do
    let ((buf, n), bs) ← takeBuffer bs
    return (.ck16 buf n, bs)
  | .decode => do
    let ((buf, n), bs) ← takeBuffer bs
    return (.decode buf n, bs)
  | .build => do
    let ((out, cap), bs) ← takeBuffer bs
    let (st, bs) ← takeBits 1 8 bs
    let (si, bs) ← takeBits 1 8 bs
    let (rt, bs) ← takeBits 1 8 bs
    let (ri, bs) ← takeBits 1 8 bs
    let (seq, bs) ← takeBits 2 16 bs
    let (pt, bs) ← takeBits 1 8 bs
    let (ack, bs) ← takeBits 1 8 bs
    let (enc, bs) ← takeBits 1 8 bs
    let (cls, bs) ← takeBits 1 8 bs
    let (mid, bs) ← takeBits 1 8 bs
    let ((pay, n), bs) ← takeBuffer bs
    return (.build out cap st si rt ri seq pt ack enc cls mid pay n, bs)
  | .create => do
    let (cb, bs) ← takeOptional bs
    let (ctx, bs) ← takeOptional bs
    return (.create cb ctx, bs)
  | .feed => do
    let (h, bs) ← takeNat 4 bs
    let ((buf, n), bs) ← takeBuffer bs
    return (.feed h buf n, bs)
  | .reset => do
    let (h, bs) ← takeNat 4 bs
    return (.reset h, bs)
  | .destroy => do
    let (h, bs) ← takeNat 4 bs
    return (.destroy h, bs)

/-- Nothing may follow the operand list (R282). -/
def noMore : Except DecodeError (Instr × List Byte) → Except DecodeError Instr
  | .ok (i, []) => .ok i
  | .ok (_, _ :: _) => .error .extraOperand
  | .error e => .error e

/-- Decode a command (R108 to R110). -/
def decodeCommand : List Byte → Except DecodeError Instr
  | [] => .error .noCode
  | c :: ops =>
    match Opcode.ofByte? c with
    | none => .error .unassignedCode
    | some o => noMore (takeOperands o ops)

/-- The rows of the message dispatch (R112). -/
inductive FrameKind where
  | rcPush | enable | channelRequest | other
  deriving DecidableEq, Repr

/-- The row of the message dispatch that a (class, id) key selects (R102, R112). -/
def frameKind (k : Half) : FrameKind :=
  if k = 0x0605#16 then .rcPush
  else if k = 0x0624#16 then .enable
  else if k = 0x0601#16 then .channelRequest
  else .other

/-- The instruction that a candidate frame of instance `h` stands for (R112). Only the length and the key are read: after
an overflow a candidate need not begin with a header (43_parser R237). -/
def decodeFrame (h : Nat) (f : List Byte) : Except DecodeError Instr :=
  if frameFits f then
    match frameKind (keyOf f) with
    | .rcPush => .ok (.rcPush h f)
    | .enable => .ok (.enable h f)
    | .channelRequest => .ok (.channelRequest h f)
    | .other => .ok (.other h f)
  else .error .frameLength

/-- Where an instruction is read from: the host's command port, or a candidate frame of an instance. -/
inductive Port where
  | command
  | frame (h : Nat)
  deriving DecidableEq, Repr

/-- Decoding, total on any bytes. -/
def decode (port : Port) (bs : List Byte) : Except DecodeError Instr :=
  match port with
  | .command => decodeCommand bs
  | .frame h => decodeFrame h bs

/-! ### The encoder -/

/-- A `w`-bit operand as `n` bytes, least significant first (R60). -/
def putBits (n : Nat) {w : Nat} (v : BitVec w) : List Byte := leBytes n v.toNat

/-- An operand that may be NULL (log 2). -/
def putOptional : Option (BitVec 64) → List Byte
  | none => leBytes 1 0 ++ leBytes 8 0
  | some v => leBytes 1 1 ++ putBits 8 v

/-- A buffer reference and its length. -/
def putBuffer (buf : Ref) (n : Len) : List Byte := putOptional buf ++ putBits 4 n

/-- The words of an instruction: CODE and operands for a command, the frame itself for a frame-dispatch row. -/
def encode : Instr → List Byte
  | .ck8 buf n => Opcode.ck8.code :: putBuffer buf n
  | .ck16 buf n => Opcode.ck16.code :: putBuffer buf n
  | .decode buf n => Opcode.decode.code :: putBuffer buf n
  | .build out cap st si rt ri seq pt ack enc cls mid pay n =>
    Opcode.build.code :: (putBuffer out cap ++ putBits 1 st ++ putBits 1 si ++ putBits 1 rt ++ putBits 1 ri ++
      putBits 2 seq ++ putBits 1 pt ++ putBits 1 ack ++ putBits 1 enc ++ putBits 1 cls ++ putBits 1 mid ++
      putBuffer pay n)
  | .create cb ctx => Opcode.create.code :: (putOptional cb ++ putOptional ctx)
  | .feed h buf n => Opcode.feed.code :: (leBytes 4 h ++ putBuffer buf n)
  | .reset h => Opcode.reset.code :: leBytes 4 h
  | .destroy h => Opcode.destroy.code :: leBytes 4 h
  | .rcPush _ f => f
  | .enable _ f => f
  | .channelRequest _ f => f
  | .other _ f => f

/-- The port an instruction is read from. -/
def portOf : Instr → Port
  | .rcPush h _ => .frame h
  | .enable h _ => .frame h
  | .channelRequest h _ => .frame h
  | .other h _ => .frame h
  | .ck8 _ _ => .command
  | .ck16 _ _ => .command
  | .decode _ _ => .command
  | .build _ _ _ _ _ _ _ _ _ _ _ _ _ _ => .command
  | .create _ _ => .command
  | .feed _ _ _ => .command
  | .reset _ => .command
  | .destroy _ => .command

/-! ### The rows of the opcode table as words -/

/-- Whether a table row of `nbits` bits is a row of the message dispatch, whose key is 16 bits; a command's CODE is 8. The
row OTHER fixes no bit, so a width of 0 is read as its key 0. DESIGN CHOICE (log 13), safe: no rule reads a table row. -/
def isFrameRow (nbits : Nat) : Bool := nbits == 16 || nbits == 0

/-- The bytes of a command whose low bits are `w`, every further operand byte 0. -/
def commandBytes (nbits w : Nat) : List Byte :=
  match leBytes (max 1 (nbits / 8)) w with
  | [] => []
  | c :: ops =>
    match Opcode.ofByte? c with
    | none => c :: ops
    | some o => c :: (ops ++ List.replicate (o.operandLength - ops.length) 0#8)

/-- A whole frame with dispatch key `w`: every other field operand 0, a payload of 17 zeros, and the checksums of the
given ROMs. -/
def tableFrame (rom : Rom) (w : Nat) : List Byte :=
  buildFrame rom ⟨0#8, 0#8, 0#8, 0#8, 0#16, 0#8, 0#8, 0#8, hiByte (BitVec.ofNat 16 w), loByte (BitVec.ofNat 16 w)⟩
    (List.replicate pushLen 0#8)

/-- The instance that a frame row of the table is shown on. -/
def tableHandle : Nat := 1

/-- The instruction read from an instruction whose bits are `w`, numbered as the opcode table numbers them. -/
def decodeTableWord (nbits w : Nat) : Option Instr :=
  (if isFrameRow nbits then decode (.frame tableHandle) (tableFrame romDefault w)
   else decode .command (commandBytes nbits w)).toOption

end Sys2Proof
end

