-- ==== Sys2Proof/Machine/Decoder.lean ====
section
/-! DEFINITION. The payload decoder DEC and the command DECODE (41_decoder R150 to R159; bits in 30_encoding R103 to
R107). -/

namespace Sys2Proof.Machine

/-- `A(k)` (R156): the centred analog value of payload bytes k, k+1; the subtraction is modulo 2^16. -/
def analogAt (p : List Byte) (k : Nat) : BitVec 16 := u16le (byteAt p k) (byteAt p (k + 1)) - centre

/-- The increment magnitude M = p[4][5:1] (R155). -/
def incMagnitude (p : List Byte) : BitVec 5 := (byteAt p 4).extractLsb' 1 5

/-- The right-wheel increment (R155): 0 if M = 0, +M if p[4][6] = 1, else -M. -/
def incrementOf (p : List Byte) : BitVec 8 :=
  if incMagnitude p = 0#5 then 0#8
  else if (byteAt p 4).getLsbD 6 then (incMagnitude p).setWidth 8
  else -((incMagnitude p).setWidth 8)

/-- Decode(p[0..16]) (R159). -/
def decodePayload (p : List Byte) : Snapshot where
  pause := (byteAt p 0).getLsbD 4
  gohome := (byteAt p 0).getLsbD 5
  shutter := (byteAt p 0).getLsbD 6
  record := (byteAt p 1).getLsbD 0
  right := (byteAt p 1).getLsbD 3
  up := (byteAt p 1).getLsbD 4
  down := (byteAt p 1).getLsbD 5
  left := (byteAt p 1).getLsbD 6
  centre := (byteAt p 1).getLsbD 7
  flightMode := FlightMode.ofBits ((byteAt p 2).extractLsb' 0 2)
  custom1 := (byteAt p 2).getLsbD 2
  custom2 := (byteAt p 2).getLsbD 3
  custom3 := (byteAt p 2).getLsbD 4
  rightWheelInc := incrementOf p
  rightH := analogAt p 5
  rightV := analogAt p 7
  leftV := analogAt p 9
  leftH := analogAt p 11
  leftWheel := analogAt p 13
  rightWheel := analogAt p 15

/-- DECODE in, n (R150, R151): only bytes 0..16 are read. -/
def execDecode (buf : Ref) (n : Len) (s : State) : Host.Outcome State Fault Refusal :=
  if buf.isNone || decide (n.toNat < pushLen) then .next (s.raise .shortPayload)
  else .next (s.answer .ok (.snapshot (decodePayload (s.readBuffer buf pushLen))))

end Sys2Proof.Machine
end

