-- ==== Sys2Proof/Machine/FrameDispatch.lean ====
section
/-! DEFINITION. The message dispatch (30_encoding R112): what the block does with a candidate frame that passed the
frame checksum gate (43_parser R230 to R232). The scanner runs these handlers inside FEED (Machine/Parser.lean); each is
also the meaning of its row of the opcode table. -/

namespace Sys2Proof.Machine

/-- Key 0x0605 (R231, R232): a payload of fewer than 17 bytes is dropped, else its first 17 bytes are decoded. -/
def rcPushLabel (f : List Byte) : Label :=
  if (payloadOf f).length < pushLen then .dropped .shortPush else .accepted (decodePayload (payloadOf f))

/-- Every other key (R230). -/
def notPushLabel : Label := .dropped .notPush

/-- The dispatch on the key (R112). -/
def dispatchLabel (f : List Byte) : Label :=
  match frameKind (keyOf f) with
  | .rcPush => rcPushLabel f
  | .enable => notPushLabel
  | .channelRequest => notPushLabel
  | .other => notPushLabel

/-- Give a label of instance `h` its effect. An instance that is not LIVE has no candidate frame; one that is named all the
same is recorded as INVALID_HANDLE. DESIGN CHOICE (log 17), safe: no command reaches it. -/
def State.retire (s : State) (h : Nat) (l : Label) : State :=
  match s.liveSlot? h with
  | none => s.recordFault .invalidHandle
  | some p => s.deliver h p [l]

/-- RC_PUSH (R231, R232). -/
def execRcPush (h : Nat) (f : List Byte) (s : State) : Host.Outcome State Fault Refusal :=
  .next (s.retire h (rcPushLabel f))

/-- ENABLE (R230): dropped NOT_PUSH. -/
def execEnable (h : Nat) (_f : List Byte) (s : State) : Host.Outcome State Fault Refusal :=
  .next (s.retire h notPushLabel)

/-- CHANNEL_REQUEST (R230): dropped NOT_PUSH. -/
def execChannelRequest (h : Nat) (_f : List Byte) (s : State) : Host.Outcome State Fault Refusal :=
  .next (s.retire h notPushLabel)

/-- OTHER (R230): dropped NOT_PUSH. -/
def execOther (h : Nat) (_f : List Byte) (s : State) : Host.Outcome State Fault Refusal :=
  .next (s.retire h notPushLabel)

end Sys2Proof.Machine
end

