-- ==== Sys2Proof/Machine/Parser.lean ====
section
/-! DEFINITION. The streaming frame parser PAR (43_parser): the scanner, and the commands CREATE, FEED, RESET and
DESTROY. -/

namespace Sys2Proof.Machine

/-! ### The scanner (R220 to R238) -/

/-- The steps of R238. -/
inductive ScanStep where
  | sEmpty | sNotSof | sWait | sHck | sLen | sLatch | aWait | aTake
  deriving DecidableEq, Repr

/-- The first four bytes of the stream, Ring[0..3] (R224). -/
def Slot.header (p : Slot) : List Byte := p.copy 4

/-- HOK (R238): `CK8(Ring[0..2]) = Ring[3]`. -/
def headerOk (rom : Rom) (p : Slot) : Bool := ck8 rom (p.header.take 3) == hckOf p.header

/-- LEN in [13, 1400] (R225, R226). -/
def lengthOk (len : Nat) : Bool := decide (minFrame ≤ len) && decide (len ≤ maxFrame)

/-- Step selection, the decision table of R238. -/
def Slot.select (rom : Rom) (p : Slot) : ScanStep :=
  match p.scan with
  | .seekingStart =>
    if p.count.toNat = 0 then .sEmpty
    else if p.ringAt 0 ≠ sof then .sNotSof
    else if p.count.toNat < 4 then .sWait
    else if !headerOk rom p then .sHck
    else if !lengthOk (lenOf p.header) then .sLen
    else .sLatch
  | .accumulatingFrame => if p.count.toNat < p.expLen.toNat then .aWait else .aTake

/-- The frame checksum gate (R229). -/
def frameOk (rom : Rom) (f : List Byte) : Bool := ck16 rom (checkedOf f) == fckOf f

/-- Classification of a candidate frame (R229 to R232), in that order. -/
def classify (rom : Rom) (f : List Byte) : Label :=
  if frameOk rom f then dispatchLabel f else .dropped .frameCk

/-- Perform a step (R222, R224 to R226, R228): none where the step awaits (R221, R223, R227), else the slot after it and
what it says. -/
def Slot.perform (rom : Rom) (p : Slot) : ScanStep → Option (Slot × Option Label)
  | .sEmpty => none
  | .sWait => none
  | .aWait => none
  | .sNotSof => some (p.discard 1, some (.dropped .notSof))
  | .sHck => some (p.discard 1, some (.dropped .hdrCk))
  | .sLen => some (p.discard 1, some (.dropped .lenRange))
  | .sLatch => some (p.latch (lenOf p.header), none)
  | .aTake => some ((p.discard p.expLen.toNat).seek, some (classify rom (p.copy p.expLen.toNat)))

/-- One scanner step. -/
def Slot.scanStep (rom : Rom) (p : Slot) : Option (Slot × Option Label) := p.perform rom (p.select rom)

/-- At most `k` scanner steps, ending early at a step that awaits (R220). -/
def Slot.scanFor (rom : Rom) : Nat → Slot → Slot × List Label
  | 0, p => (p, [])
  | k + 1, p =>
    match p.scanStep rom with
    | none => (p, [])
    | some (q, l) => ((Slot.scanFor rom k q).1, l.toList ++ (Slot.scanFor rom k q).2)

/-- A bound on the steps of a scan. DEDUCED (log 18) from R251, safe: at most 2 COUNT + 1 steps, the last of which awaits. -/
def Slot.scanBound (p : Slot) : Nat := 2 * p.count.toNat + 2

/-- `Scan(h)` (R220): steps until one awaits. -/
def Slot.runScan (rom : Rom) (p : Slot) : Slot × List Label := Slot.scanFor rom p.scanBound p

/-! ### FEED (R212 to R217) -/

/-- `Feed` with FEED_MODE = BULK (R215). -/
def Slot.feedBulk (rom : Rom) (p : Slot) (bs : List Byte) : Slot × List Label := (p.pushAll bs).runScan rom

/-- `Feed` with FEED_MODE = PER_BYTE (R216). -/
def Slot.feedPerByte (rom : Rom) : Slot → List Byte → Slot × List Label
  | p, [] => (p, [])
  | p, b :: bs =>
    ((Slot.feedPerByte rom ((p.push b).runScan rom).1 bs).1,
     ((p.push b).runScan rom).2 ++ (Slot.feedPerByte rom ((p.push b).runScan rom).1 bs).2)

/-- `Feed(h, bytes)` by FEED_MODE. -/
def Slot.feed (rom : Rom) (mode : FeedMode) (p : Slot) (bs : List Byte) : Slot × List Label :=
  match mode with
  | .bulk => p.feedBulk rom bs
  | .perByte => p.feedPerByte rom bs

/-- A FEED of bytes to the LIVE slot `p` of handle `h`: the slot after it, its events and drops, and the count of events as
response (R217). -/
def State.feedSlot (s : State) (h : Nat) (p : Slot) (bs : List Byte) : State :=
  ((s.updateSlot h (fun _ => (p.feed s.rom s.feedMode bs).1)).deliver h p (p.feed s.rom s.feedMode bs).2).respond
    (.delivered (BitVec.ofNat 32 (snapshotsOf (p.feed s.rom s.feedMode bs).2).length))

/-- FEED h, in, n (R212): the null checks come before the handle's (60_exceptions R276). -/
def execFeed (h : Nat) (buf : Ref) (n : Len) (s : State) : Host.Outcome State Fault Refusal :=
  if h = 0 ∨ buf = none then .next (s.respond (.delivered 0#32))
  else
    match s.liveSlot? h with
    | none => .next (s.recordFault .invalidHandle)
    | some p => .next (s.feedSlot h p (s.readBuffer buf n.toNat))

/-! ### Lifecycle commands (R210, R211, R218, R219) -/

/-- CREATE cb, ctx (R210). -/
def execCreate (cb ctx : Option Token) (s : State) : Host.Outcome State Fault Refusal :=
  if cb = none then .next (s.answer .invalidArgument (.handle 0))
  else
    match s.chooseSlot with
    | none => .next (s.answer .allocationFailed (.handle 0))
    | some h => .next (((s.updateSlot h (fun p => p.create cb ctx)).drawn 1).answer .ok (.handle h))

/-- RESET h (R218). -/
def execReset (h : Nat) (s : State) : Host.Outcome State Fault Refusal :=
  if h = 0 then .next (s.respond .done)
  else
    match s.liveSlot? h with
    | none => .next (s.recordFault .invalidHandle)
    | some _ => .next ((s.updateSlot h Slot.clear).respond .done)

/-- DESTROY h (R219): a NULL handle and a FREE slot are no-ops. -/
def execDestroy (h : Nat) (s : State) : Host.Outcome State Fault Refusal :=
  if h = 0 then .next (s.respond .done)
  else
    match s.slot? h with
    | none => .next (s.recordFault .invalidHandle)
    | some p => .next ((if p.live then s.updateSlot h Slot.release else s).respond .done)

end Sys2Proof.Machine
end

