-- ==== Sys2Proof/Machine/Dispatch.lean ====
section
/-! DEFINITION. The dispatch from an instruction to its meaning. -/

namespace Sys2Proof.Machine

def exec (i : Instr) (s : State) : Host.Outcome State Fault Refusal :=
  match i with
  | .ck8 buf n => Sys2Proof.Machine.execCk8 buf n s
  | .ck16 buf n => Sys2Proof.Machine.execCk16 buf n s
  | .decode buf n => Sys2Proof.Machine.execDecode buf n s
  | .build out cap st si rt ri seq pt ack enc cls mid pay n => Sys2Proof.Machine.execBuild out cap st si rt ri seq pt ack enc cls mid pay n s
  | .create cb ctx => Sys2Proof.Machine.execCreate cb ctx s
  | .feed h buf n => Sys2Proof.Machine.execFeed h buf n s
  | .reset h => Sys2Proof.Machine.execReset h s
  | .destroy h => Sys2Proof.Machine.execDestroy h s
  | .rcPush h f => Sys2Proof.Machine.execRcPush h f s
  | .enable h f => Sys2Proof.Machine.execEnable h f s
  | .channelRequest h f => Sys2Proof.Machine.execChannelRequest h f s
  | .other h f => Sys2Proof.Machine.execOther h f s

end Sys2Proof.Machine
end

