-- ==== Sys2Proof/Machine/HostPort.lean ====
section
/-! DEFINITION. The host's command port: taking the oldest issued command (20_memory R63), the faults of its issue
pattern (60_exceptions R280), running it, and placing a command or a frame where the next step takes it. -/

namespace Sys2Proof.Machine

/-- The handle of the instance a host command acts on; none for the pure commands, CREATE and a NULL handle. -/
def targetOf : Instr → Option Nat
  | .feed h _ _ => if h = 0 then none else some h
  | .reset h => if h = 0 then none else some h
  | .destroy h => if h = 0 then none else some h
  | .ck8 _ _ => none
  | .ck16 _ _ => none
  | .decode _ _ => none
  | .build _ _ _ _ _ _ _ _ _ _ _ _ _ _ => none
  | .create _ _ => none
  | .rcPush _ _ => none
  | .enable _ _ => none
  | .channelRequest _ _ => none
  | .other _ _ => none

/-- The fault of a decoded command's issue pattern: a command issued inside a delivery (60_exceptions R283), or one by a second
host on the instance that another command is still using (20_memory R77). -/
def issueFault (p : Issue) (i : Instr) : Option FaultReason :=
  match p with
  | .serial => none
  | .nested => some .reentrantCommand
  | .concurrent busy => if targetOf i = some busy then some .sharedInstance else none

/-- Run one issued command in a state whose FAULTS is empty, causes in the order of 60_exceptions R276. R276 ranks neither
an operand list that mismatches (R282) nor the issue pattern (R283, 20_memory R77; 70_reset R321, R322). DESIGN CHOICE
(log 15, log 31), safe: bytes that decode to no command record ILLEGAL_COMMAND first, for their code or their operand list
alike; then comes the issue pattern; then every other cause. -/
def State.runCommand (s : State) (c : HostCommand) : Host.Outcome State Fault Refusal :=
  match decode .command c.bytes with
  | .error _ => .next (s.recordFault .illegalCommand)
  | .ok i =>
    match issueFault c.issue i with
    | some r => .next (s.recordFault r)
    | none => exec i s

/-- Issue a command before every other waiting one. -/
def State.issueFirst (s : State) (bytes : List Byte) : State :=
  { s with queue := ⟨.serial, bytes⟩ :: s.queue }

/-- The address at which a frame row of the opcode table is laid out for FEED. -/
def tableAddr : Addr := 0x1000#64

/-- The slots with slot 1 LIVE and fresh: what a frame needs to be dispatched for instance 1. -/
def withLiveFirst : List Slot → List Slot
  | [] => [Slot.create Slot.free (some 1#64) none]
  | p :: ps => Slot.create p (some 1#64) none :: ps

/-- A frame-dispatch row is run by the scanner alone, inside a FEED (43_parser R228): instance 1 is LIVE and empty, the
whole frame stands in host memory, and the next command is the FEED of it (log 16). -/
def State.withFrame (s : State) (frame : List Byte) : State :=
  ({ s with slots := withLiveFirst s.slots }.store tableAddr.toNat frame).issueFirst
    (encode (.feed tableHandle (some tableAddr) (BitVec.ofNat 32 frame.length)))

/-- The state with FAULTS empty, in which a command can be taken (60_exceptions R281). -/
def State.withoutFaults (s : State) : State := { s with faults := [] }

/-- The state with the instruction of bits `w` where the next step takes it. -/
def State.placeWord (s : State) (nbits w : Nat) : State :=
  if isFrameRow nbits then s.withoutFaults.withFrame (tableFrame s.rom w)
  else s.withoutFaults.issueFirst (commandBytes nbits w)

end Sys2Proof.Machine
end

