-- ==== Sys2Proof/Machine/Step.lean ====
section
/-! DEFINITION. One step of the block: one issued command, run to completion (00_scope R1, 20_memory R73). -/

namespace Sys2Proof.Machine

/-- One step. In a state whose FAULTS is not empty no command has a step (60_exceptions R281); with no command issued the
block does nothing (60_exceptions R289; log 25). -/
def step (s : State) : Host.Outcome State Fault Refusal :=
  if s.faults = [] then
    match s.queue with
    | [] => .next s
    | c :: rest => State.runCommand { s with queue := rest } c
  else .fault .quiescent

/-- The state with the instruction of bits `w`, numbered as the opcode table numbers them, where `step` takes its next
instruction. -/
def State.withFetchWord (s : State) (nbits w : Nat) : State := s.placeWord nbits w

end Sys2Proof.Machine
end

