-- ==== Sys2Proof/Machine/Pseudo.lean ====
section
/-! DEFINITION. The pseudo-commands of 30_encoding R117: shorthand of the host for commands. A byte list given as an operand
is a non-NULL buffer (R116); here the host names the address at which it keeps the list. -/

namespace Sys2Proof.Machine

/-- `FEED1 h, b` (R117), the byte b kept at `a`. -/
def pseudoFeed1 (h : Nat) (a : Addr) : Instr := .feed h (some a) 1#32

/-- `BUILDPUSH out, cap, src, dst, seq, pay` (R117). -/
def pseudoBuildPush (out : Ref) (cap : Len) (st si rt ri : Byte) (seq : Half) (pay : Ref) (n : Len) : Instr :=
  .build out cap st si rt ri seq 0#8 0#8 0#8 pushClass pushId pay n

/-- `BUILDENABLE out, cap, src, dst, seq` (R117), the payload byte 01 kept at `a`. -/
def pseudoBuildEnable (out : Ref) (cap : Len) (st si rt ri : Byte) (seq : Half) (a : Addr) : Instr :=
  .build out cap st si rt ri seq 0#8 0#8 0#8 pushClass enableId (some a) 1#32

/-- `BUILDCHREQ out, cap, src, dst, seq` (R117), the empty payload kept at `a`. -/
def pseudoBuildChReq (out : Ref) (cap : Len) (st si rt ri : Byte) (seq : Half) (a : Addr) : Instr :=
  .build out cap st si rt ri seq 0#8 0#8 0#8 pushClass channelRequestId (some a) 0#32

/-- What `SEND` does after its BUILD (R117): a FEED of the L bytes at T if the status was OK with length L. A BUILD that
recorded a fault gave no response, and nothing follows it (60_exceptions R281). -/
def sendBuilt (h : Nat) (t : Addr) (s : State) : Host.Outcome State Fault Refusal :=
  if s.faults = [] then
    match s.responses.getLast? with
    | some (.status .ok (.length l)) => exec (.feed h (some t) l) s
    | _ => .next s
  else .next s

/-- `SEND h, <BUILD operands>` (R117): BUILD into the host's scratch buffer T with capacity 1400, then the FEED. -/
def pseudoSend (h : Nat) (t : Addr) (st si rt ri : Byte) (seq : Half) (pt ack enc cls mid : Byte) (pay : Ref)
    (n : Len) (s : State) : Host.Outcome State Fault Refusal :=
  match exec (.build (some t) 1400#32 st si rt ri seq pt ack enc cls mid pay n) s with
  | .next s' => sendBuilt h t s'
  | .fault r => .fault r
  | .refused r => .refused r

end Sys2Proof.Machine
end

