-- ==== Sys2Proof/Safety.lean ====
section
/-! DEFINITION. What counts as a safe run, and the invariants of 10_state R37 and R38 in the terms claims use. -/

namespace Sys2Proof.Machine

/-- A state of a correct run: FAULTS is empty (60_exceptions R281). -/
abbrev State.Safe (s : State) : Prop := s.faults = []

/-- The register bounds of 10_state R37 that hold inside a FEED too: COUNT at most 4096, and 13 <= EXPLEN <= 1023 while
accumulating. -/
abbrev Slot.BoundsOk (p : Slot) : Prop :=
  p.count.toNat ≤ 4096 ∧ (p.scan = .accumulatingFrame → 13 ≤ p.expLen.toNat ∧ p.expLen.toNat ≤ 1023)

/-- Quiescence (43_parser R250): one of (a), (b), (c). -/
abbrev Slot.Quiescent (p : Slot) : Prop :=
  (p.scan = .seekingStart ∧ p.count.toNat = 0) ∨
  (p.scan = .seekingStart ∧ p.ringAt 0 = sof ∧ 1 ≤ p.count.toNat ∧ p.count.toNat ≤ 3) ∨
  (p.scan = .accumulatingFrame ∧ p.count.toNat < p.expLen.toNat ∧ p.expLen.toNat ≤ 1023)

/-- The registers of a LIVE slot between commands (10_state R23, R37): CB is not NULL, the bounds and quiescence hold, and
a latched header's four bytes are buffered. -/
abbrev Slot.RegistersOk (p : Slot) : Prop :=
  p.cb ≠ none ∧ p.BoundsOk ∧ p.Quiescent ∧ (p.scan = .accumulatingFrame → 4 ≤ p.count.toNat)

/-- The ring is a canonical cell list over the physical indices 0..4095 (20_memory R64). -/
abbrev Slot.RingOk (p : Slot) : Prop :=
  Memory.wf p.ring = true ∧ ∀ c ∈ p.ring, c.1 < 4096

/-- The invariant between commands. -/
abbrev State.Ok (s : State) : Prop :=
  Memory.wf s.mem = true ∧ ∀ p ∈ s.slots, p.RingOk ∧ (p.live = true → p.RegistersOk)

/-- The latched header stands at Ring[0..3] (10_state R38). -/
abbrev Slot.HeaderLatched (rom : Rom) (p : Slot) : Prop :=
  p.scan = .accumulatingFrame →
    p.ringAt 0 = sof ∧ headerOk rom p = true ∧ lenOf p.header = p.expLen.toNat ∧ 4 ≤ p.count.toNat

/-- No RingPush of a FEED of `n` bytes overwrites (43_parser R253, R259). -/
abbrev Slot.NoOverwrite (mode : FeedMode) (p : Slot) (n : Nat) : Prop :=
  mode = .perByte ∨ p.count.toNat + n ≤ 4096

end Sys2Proof.Machine
end

