-- ==== Sys2Proof/Certificates/Slice0/Obligations.lean ====
section
/-! DEFINITION. The statements for the provers, from the numbered rules of the spec. Each holds for every state, every
table contents, both feed modes and every number of slots, unless it says otherwise. -/

open Sys2Proof Sys2Proof.Machine

/-! ### The machine's step -/

/-- A step runs the decoded command: the oldest issued command leaves the queue and `exec` runs it (00_scope R1,
60_exceptions R276). -/
def Obligations.StepRunsDecodedCommand : Prop :=
  ∀ (s : State) (c : HostCommand) (rest : List HostCommand) (i : Instr),
    s.faults = [] → s.queue = c :: rest → decode .command c.bytes = .ok i → issueFault c.issue i = none →
    step s = exec i { s with queue := rest }

/-- 60_exceptions R281: a state in which FAULTS is not empty has no further step, hence no further event. With FAULTS empty
and no command issued the block does nothing (R289; the model's reading, log 25). -/
def Obligations.FaultedStateHasNoStep : Prop :=
  ∀ s : State, (s.faults ≠ [] → step s = .fault .quiescent) ∧ (s.faults = [] → s.queue = [] → step s = .next s)

/-- 30_encoding R110: a command with an unassigned code records ILLEGAL_COMMAND and changes no other state; so does one
whose operand list is too short or too long (60_exceptions R282; the byte lengths are the model's, log 2). Both come before
the issue pattern, a rank that is the model's (log 15, log 31). -/
def Obligations.IllegalCommandsAreRecorded : Prop :=
  ∀ (s : State) (c : HostCommand) (rest : List HostCommand) (code : Byte) (operands : List Byte),
    s.faults = [] → s.queue = c :: rest → c.bytes = code :: operands →
    (code ∉ [0x01#8, 0x02#8, 0x10#8, 0x20#8, 0x30#8, 0x31#8, 0x32#8, 0x33#8] →
      step s = .next { s with queue := rest, faults := [.illegalCommand] }) ∧
    (∀ o : Opcode, code = o.code → operands.length ≠ o.operandLength →
      step s = .next { s with queue := rest, faults := [.illegalCommand] })

/-- 60_exceptions R283, 20_memory R77: a command issued inside a delivery records REENTRANT_COMMAND; one by a second host
on the instance another command is still using records SHARED_INSTANCE. How a queue entry says so is the model's (log 15),
and so is the rank: the command's bytes must decode (log 31). -/
def Obligations.IssuePatternFaultsAreRecorded : Prop :=
  ∀ (s : State) (c : HostCommand) (rest : List HostCommand) (i : Instr),
    s.faults = [] → s.queue = c :: rest → decode .command c.bytes = .ok i →
    (c.issue = .nested → step s = .next { s with queue := rest, faults := [.reentrantCommand] }) ∧
    (∀ h, c.issue = .concurrent h → targetOf i = some h →
      step s = .next { s with queue := rest, faults := [.sharedInstance] })

/-! ### Checksum kernels and commands -/

/-- 40_checksum R140: the seed 0x77 and, for each input byte, the new state from TABLE8. -/
def Obligations.Ck8FoldsThroughTable8 : Prop :=
  ∀ rom : Rom, ck8 rom [] = 0x77#8 ∧
    ∀ (bytes : List Byte) (b : Byte),
      rom.table8[((ck8 rom bytes).toNat ^^^ b.toNat) % 256]? = some (ck8 rom (bytes ++ [b]))

/-- 40_checksum R141: the seed 0x3692 and, for each input byte, the new state from TABLE16 and the shifted state. -/
def Obligations.Ck16FoldsThroughTable16 : Prop :=
  ∀ rom : Rom, ck16 rom [] = 0x3692#16 ∧
    ∀ (bytes : List Byte) (b : Byte),
      (rom.table16[((ck16 rom bytes).toNat ^^^ b.toNat) % 256]?).map (fun x => x ^^^ (ck16 rom bytes >>> 8)) =
        some (ck16 rom (bytes ++ [b]))

/-- 40_checksum R145, R146, R149: the results of CK8 and CK16, which change nothing but give a response. -/
def Obligations.ChecksumCommandsAnswer : Prop :=
  ∀ (s : State) (a : Addr) (n : Len),
    exec (.ck8 (some a) n) s = .next { s with responses := s.responses ++
      [.status .ok (.byte (ck8 s.rom (Memory.readBytes s.mem a.toNat n.toNat)))] } ∧
    exec (.ck16 (some a) n) s = .next { s with responses := s.responses ++
      [.status .ok (.word (ck16 s.rom (Memory.readBytes s.mem a.toNat n.toNat)))] } ∧
    (n.toNat = 0 →
      exec (.ck8 none n) s = .next { s with responses := s.responses ++ [.status .ok (.byte 0x77#8)] } ∧
      exec (.ck16 none n) s = .next { s with responses := s.responses ++ [.status .ok (.word 0x3692#16)] }) ∧
    (0 < n.toNat →
      exec (.ck8 none n) s = .next { s with responses := s.responses ++ [.status .invalidArgument .none] } ∧
      exec (.ck16 none n) s = .next { s with responses := s.responses ++ [.status .invalidArgument .none] })

/-! ### The payload decoder -/

/-- 41_decoder R150, R151: DECODE answers the snapshot of the first 17 bytes, or SHORT_PAYLOAD for a NULL buffer or
n < 17; it changes nothing but give a response. -/
def Obligations.DecodeAnswers : Prop :=
  ∀ (s : State) (buf : Ref) (n : Len),
    (∀ a : Addr, buf = some a → 17 ≤ n.toNat →
      exec (.decode buf n) s = .next { s with responses := s.responses ++
        [.status .ok (.snapshot (decodePayload (Memory.readBytes s.mem a.toNat 17)))] }) ∧
    (buf = none ∨ n.toNat < 17 →
      exec (.decode buf n) s = .next { s with responses := s.responses ++ [.status .shortPayload .none] })

/-- 41_decoder R152, R153, R154: the buttons, the five-way pad, the custom buttons and the flight mode. -/
def Obligations.DecodedButtonsAndMode : Prop :=
  ∀ p : List Byte,
    let v := fun k b => ((byteAt p k).toNat / 2 ^ b) % 2
    let d := decodePayload p
    (d.pause = true ↔ v 0 4 = 1) ∧ (d.gohome = true ↔ v 0 5 = 1) ∧ (d.shutter = true ↔ v 0 6 = 1) ∧
    (d.record = true ↔ v 1 0 = 1) ∧ (d.right = true ↔ v 1 3 = 1) ∧ (d.up = true ↔ v 1 4 = 1) ∧
    (d.down = true ↔ v 1 5 = 1) ∧ (d.left = true ↔ v 1 6 = 1) ∧ (d.centre = true ↔ v 1 7 = 1) ∧
    (d.custom1 = true ↔ v 2 2 = 1) ∧ (d.custom2 = true ↔ v 2 3 = 1) ∧ (d.custom3 = true ↔ v 2 4 = 1) ∧
    d.flightMode.code.toNat = (byteAt p 2).toNat % 4

/-- 41_decoder R155, R156: the increment and the six analog fields as integers. -/
def Obligations.DecodedIncrementAndAnalogs : Prop :=
  ∀ p : List Byte,
    let m := ((byteAt p 4).toNat / 2) % 32
    let u := fun k => (((byteAt p k).toNat + 256 * (byteAt p (k + 1)).toNat : Nat) : Int)
    let d := decodePayload p
    d.rightWheelInc.toInt = (if m = 0 then 0 else if ((byteAt p 4).toNat / 64) % 2 = 1 then (m : Int) else -(m : Int)) ∧
    d.rightH.toInt = Int.bmod (u 5 - 0x0400) 65536 ∧ d.rightV.toInt = Int.bmod (u 7 - 0x0400) 65536 ∧
    d.leftV.toInt = Int.bmod (u 9 - 0x0400) 65536 ∧ d.leftH.toInt = Int.bmod (u 11 - 0x0400) 65536 ∧
    d.leftWheel.toInt = Int.bmod (u 13 - 0x0400) 65536 ∧ d.rightWheel.toInt = Int.bmod (u 15 - 0x0400) 65536

/-- 41_decoder R157: the reserved bits, byte 3 and every byte from 17 on have no effect on the snapshot. -/
def Obligations.ReservedPayloadBitsHaveNoEffect : Prop :=
  ∀ p q : List Byte,
    byteAt p 0 &&& 0x70#8 = byteAt q 0 &&& 0x70#8 → byteAt p 1 &&& 0xF9#8 = byteAt q 1 &&& 0xF9#8 →
    byteAt p 2 &&& 0x1F#8 = byteAt q 2 &&& 0x1F#8 → byteAt p 4 &&& 0x7E#8 = byteAt q 4 &&& 0x7E#8 →
    (∀ k, 5 ≤ k → k ≤ 16 → byteAt p k = byteAt q k) →
    decodePayload p = decodePayload q

/-! ### The frame builder -/

/-- 42_builder R180 to R183, R188: a BUILD that passes validation writes the L bytes of the frame at out, returns L, and
changes nothing else. The second clause is the NULL payload of length 0. -/
def Obligations.BuildWritesTheFrame : Prop :=
  ∀ (s : State) (o : Addr) (cap : Len) (q : BuildFields) (n : Len),
    13 + n.toNat ≤ 1400 → 13 + n.toNat ≤ cap.toNat →
    (∀ a : Addr, (n.toNat = 0 ∨ a.toNat + n.toNat ≤ o.toNat ∨ o.toNat + cap.toNat ≤ a.toNat) →
      exec (.build (some o) cap q.st q.si q.rt q.ri q.seq q.pt q.ack q.enc q.cls q.mid (some a) n) s =
        .next { s with
          mem := Memory.writeBytes s.mem o.toNat (buildFrame s.rom q (Memory.readBytes s.mem a.toNat n.toNat))
          responses := s.responses ++ [.status .ok (.length (BitVec.ofNat 32 (13 + n.toNat)))] }) ∧
    (n.toNat = 0 →
      exec (.build (some o) cap q.st q.si q.rt q.ri q.seq q.pt q.ack q.enc q.cls q.mid none n) s =
        .next { s with
          mem := Memory.writeBytes s.mem o.toNat (buildFrame s.rom q [])
          responses := s.responses ++ [.status .ok (.length 13#32)] })

/-- The frame of BUILD in host memory: the L bytes at out read as the frame, every other byte as before (42_builder R183). -/
def Obligations.BuildStoresOnlyTheFrame : Prop :=
  ∀ (s t : State) (o : Addr) (cap : Len) (q : BuildFields) (pay : Ref) (n : Len),
    Memory.wf s.mem = true → overlaps (some o) cap pay n = false → buildInvalid (some o) cap pay n = false →
    exec (.build (some o) cap q.st q.si q.rt q.ri q.seq q.pt q.ack q.enc q.cls q.mid pay n) s = .next t →
    (∀ k, k < 13 + n.toNat →
      Memory.read t.mem (o.toNat + k) = byteAt (buildFrame s.rom q (s.readBuffer pay n.toNat)) k) ∧
    (∀ x, x < o.toNat ∨ o.toNat + (13 + n.toNat) ≤ x → Memory.read t.mem x = Memory.read s.mem x)

/-- 30_encoding R91 to R97: the bytes of the frame that BUILD writes. -/
def Obligations.BuiltFrameLayout : Prop :=
  ∀ (rom : Rom) (q : BuildFields) (pay : List Byte),
    let f := buildFrame rom q pay
    let l := 13 + pay.length
    f.length = l ∧
    byteAt f 0 = 0x55#8 ∧
    (byteAt f 1).toNat + 256 * (byteAt f 2).toNat = l % 1024 + 1024 ∧
    byteAt f 3 = ck8 rom [byteAt f 0, byteAt f 1, byteAt f 2] ∧
    (byteAt f 4).toNat = q.st.toNat % 32 + 32 * (q.si.toNat % 8) ∧
    (byteAt f 5).toNat = q.rt.toNat % 32 + 32 * (q.ri.toNat % 8) ∧
    (byteAt f 6).toNat + 256 * (byteAt f 7).toNat = q.seq.toNat ∧
    (byteAt f 8).toNat = 128 * (q.pt.toNat % 2) + 32 * (q.ack.toNat % 4) + q.enc.toNat % 8 ∧
    byteAt f 9 = q.cls ∧ byteAt f 10 = q.mid ∧
    (f.drop 11).take pay.length = pay ∧
    (byteAt f (l - 2)).toNat + 256 * (byteAt f (l - 1)).toNat = (ck16 rom (f.take (l - 2))).toNat

/-- 42_builder R181: without an overlap, INVALID_ARGUMENT is the response exactly when one of the four conditions holds;
L is exact (R182). -/
def Obligations.BuildRejectsExactlyInvalidArguments : Prop :=
  ∀ (s : State) (out : Ref) (cap : Len) (q : BuildFields) (pay : Ref) (n : Len),
    overlaps out cap pay n = false →
    ((∃ t, exec (.build out cap q.st q.si q.rt q.ri q.seq q.pt q.ack q.enc q.cls q.mid pay n) s = .next t ∧
        t.responses = s.responses ++ [.status .invalidArgument .none]) ↔
      (out = none ∨ (pay = none ∧ 0 < n.toNat) ∨ 1400 < 13 + n.toNat ∨ cap.toNat < 13 + n.toNat))

/-- 42_builder R185, R188: a BUILD that fails changes no block state and no byte of host memory outside out[0..cap-1];
nothing at all is written where out is NULL. What out[0..cap-1] holds is free (log 9). -/
def Obligations.FailedBuildTouchesOnlyItsOutput : Prop :=
  ∀ (s : State) (out : Ref) (cap : Len) (q : BuildFields) (pay : Ref) (n : Len),
    overlaps out cap pay n = false → buildInvalid out cap pay n = true →
    ∃ (m : Memory) (k : Nat),
      exec (.build out cap q.st q.si q.rt q.ri q.seq q.pt q.ack q.enc q.cls q.mid pay n) s =
        .next { s with mem := m, draws := k, responses := s.responses ++ [.status .invalidArgument .none] } ∧
      (out = none → m = s.mem) ∧
      (∀ (o : Addr) (x : Nat), out = some o → x < o.toNat ∨ o.toNat + cap.toNat ≤ x →
        Memory.read m x = Memory.read s.mem x)

/-- 20_memory R80, 60_exceptions R276: overlapping buffers record BUILD_OVERLAP and give the command no result, even where
validation would fail too. -/
def Obligations.OverlappingBuildRecordsFault : Prop :=
  ∀ (s : State) (o a : Addr) (cap : Len) (q : BuildFields) (n : Len),
    s.faults = [] → 0 < cap.toNat → 0 < n.toNat → o.toNat < a.toNat + n.toNat → a.toNat < o.toNat + cap.toNat →
    exec (.build (some o) cap q.st q.si q.rt q.ri q.seq q.pt q.ack q.enc q.cls q.mid (some a) n) s =
      .next { s with faults := [.buildOverlap] }

/-- 40_checksum R148: a frame of the builder passes the header gate and the frame gate whatever the tables are. -/
def Obligations.BuiltFramePassesBothGates : Prop :=
  ∀ (rom : Rom) (q : BuildFields) (pay : List Byte),
    ck8 rom ((buildFrame rom q pay).take 3) = hckOf (buildFrame rom q pay) ∧
    frameOk rom (buildFrame rom q pay) = true

/-- 30_encoding R90 to R98: reading the fields of a built frame gives the masked operands, version 1 and reserved bits 0. -/
def Obligations.FrameFieldsReadBack : Prop :=
  ∀ (rom : Rom) (q : BuildFields) (pay : List Byte),
    let f := buildFrame rom q pay
    lenOf f = (13 + pay.length) % 1024 ∧ verOf f = 1#6 ∧
    senderTypeOf f = q.st.setWidth 5 ∧ senderIndexOf f = q.si.setWidth 3 ∧
    receiverTypeOf f = q.rt.setWidth 5 ∧ receiverIndexOf f = q.ri.setWidth 3 ∧
    seqOf f = q.seq ∧ packTypeOf f = q.pt.setWidth 1 ∧ ackOf f = q.ack.setWidth 2 ∧ reservedOf f = 0#2 ∧
    encryptionOf f = q.enc.setWidth 3 ∧ classOf f = q.cls ∧ idOf f = q.mid ∧ payloadOf f = pay ∧
    fckOf f = ck16 rom (checkedOf f)

/-- 42_builder R184: a built frame of 1024 to 1400 bytes carries the length L - 1024, and from 1024 to 1036 bytes the
length gate costs it one byte. -/
def Obligations.LongFramesCarryATruncatedLength : Prop :=
  ∀ (rom : Rom) (q : BuildFields) (pay : List Byte),
    1024 ≤ 13 + pay.length → 13 + pay.length ≤ 1400 →
    lenOf (buildFrame rom q pay) = 13 + pay.length - 1024 ∧
    (∀ p : Slot, p.scan = .seekingStart → 4 ≤ p.count.toNat → p.header = (buildFrame rom q pay).take 4 →
      13 + pay.length ≤ 1036 → p.scanStep rom = some (p.discard 1, some (.dropped .lenRange)))

/-- 42_builder R190: the round trip. A BUILD that succeeds with L at most 1023, then a FEED of the frame to a LIVE instance
in SEEKING_START with an empty ring: the frame is consumed whole, and exactly one event, the decoded payload, is emitted
if it is a push frame of at least 17 payload bytes, else none. -/
def Obligations.BuiltFrameRoundTrips : Prop :=
  ∀ (s : State) (o : Addr) (cap : Len) (q : BuildFields) (pay : Ref) (n : Len) (h : Nat) (p : Slot),
    Memory.wf s.mem = true → overlaps (some o) cap pay n = false → buildInvalid (some o) cap pay n = false →
    13 + n.toNat ≤ 1023 →
    s.slot? h = some p → p.live = true → p.scan = .seekingStart → p.count = 0#13 → Memory.wf p.ring = true →
    ∃ s1 t r,
      exec (.build (some o) cap q.st q.si q.rt q.ri q.seq q.pt q.ack q.enc q.cls q.mid pay n) s = .next s1 ∧
      exec (.feed h (some o) (BitVec.ofNat 32 (13 + n.toNat))) s1 = .next t ∧
      t.events = s.events ++
        (if q.cls = 0x06#8 ∧ q.mid = 0x05#8 ∧ 17 ≤ n.toNat then
          [⟨h, p.cb, p.ctx, decodePayload (s.readBuffer pay n.toNat)⟩] else []) ∧
      t.responses = s.responses ++ [.status .ok (.length (BitVec.ofNat 32 (13 + n.toNat))),
        .delivered (if q.cls = 0x06#8 ∧ q.mid = 0x05#8 ∧ 17 ≤ n.toNat then 1#32 else 0#32)] ∧
      t.slot? h = some r ∧ r.scan = .seekingStart ∧ r.count = 0#13 ∧ r.expLen.toNat = 13 + n.toNat

/-! ### Lifecycle commands -/

/-- 43_parser R210, 70_reset R311: CREATE with a callback and a FREE slot sets up some FREE slot and answers its handle;
every other slot and all the rest are unchanged. Which slot is a free value (log 8), and so is what RING holds. -/
def Obligations.CreateSetsUpAFreeSlot : Prop :=
  ∀ (s : State) (c : Token) (ctx : Option Token),
    (∃ p ∈ s.slots, p.live = false) →
    ∃ h p r t,
      s.slot? h = some p ∧ p.live = false ∧ exec (.create (some c) ctx) s = .next t ∧
      t.slot? h = some r ∧ r.live = true ∧ r.cb = some c ∧ r.ctx = ctx ∧ r.scan = .seekingStart ∧
      r.expLen = 0#11 ∧ r.head = 0#12 ∧ r.count = 0#13 ∧
      (∀ h', h' ≠ h → t.slot? h' = s.slot? h') ∧ t.slots.length = s.slots.length ∧
      t.responses = s.responses ++ [.status .ok (.handle h)] ∧
      t.rom = s.rom ∧ t.feedMode = s.feedMode ∧ t.mem = s.mem ∧ t.queue = s.queue ∧ t.events = s.events ∧
      t.drops = s.drops ∧ t.faults = s.faults

/-- 43_parser R211: ALLOCATION_FAILED happens exactly when every slot is LIVE. A NULL callback answers INVALID_ARGUMENT
before any slot is examined (R210, 60_exceptions R276). Both answer the NULL handle and change nothing else. -/
def Obligations.CreateFailures : Prop :=
  ∀ (s : State) (c : Token) (ctx : Option Token),
    (exec (.create (some c) ctx) s =
        .next { s with responses := s.responses ++ [.status .allocationFailed (.handle 0)] } ↔
      ∀ p ∈ s.slots, p.live = true) ∧
    exec (.create none ctx) s =
      .next { s with responses := s.responses ++ [.status .invalidArgument (.handle 0)] }

/-- 43_parser R213: FEED with a NULL handle or a NULL buffer does nothing and returns 0. -/
def Obligations.NullFeedReturnsZero : Prop :=
  ∀ (s : State) (h : Nat) (buf : Ref) (n : Len), h = 0 ∨ buf = none →
    exec (.feed h buf n) s = .next { s with responses := s.responses ++ [.delivered 0#32] }

/-- 43_parser R214: FEED or RESET on a handle that is not NULL and names no LIVE slot records INVALID_HANDLE, changes no
other state and gives no response. -/
def Obligations.DanglingHandleRecordsFault : Prop :=
  ∀ (s : State) (h : Nat) (a : Addr) (n : Len),
    s.faults = [] → h ≠ 0 → (s.slots.length < h ∨ ∃ p, s.slot? h = some p ∧ p.live = false) →
    exec (.feed h (some a) n) s = .next { s with faults := [.invalidHandle] } ∧
    exec (.reset h) s = .next { s with faults := [.invalidHandle] }

/-- 43_parser R212, R215, R216: FEED to a LIVE slot pushes and scans by FEED_MODE, appends its events in order and answers
their count; every other slot and all the rest are unchanged. -/
def Obligations.FeedPushesAndScans : Prop :=
  ∀ (s : State) (h : Nat) (p : Slot) (a : Addr) (n : Len),
    s.slot? h = some p → p.live = true →
    let bytes := Memory.readBytes s.mem a.toNat n.toNat
    let r := p.feed s.rom s.feedMode bytes
    (s.feedMode = .bulk → r = (bytes.foldl Slot.push p).runScan s.rom) ∧
    (s.feedMode = .perByte → r = p.feedPerByte s.rom bytes) ∧
    ∃ t, exec (.feed h (some a) n) s = .next t ∧
      t.slot? h = some r.1 ∧ (∀ h', h' ≠ h → t.slot? h' = s.slot? h') ∧ t.slots.length = s.slots.length ∧
      t.events = s.events ++ (snapshotsOf r.2).map (fun v => ⟨h, p.cb, p.ctx, v⟩) ∧
      t.drops = s.drops ++ (reasonsOf r.2).map (fun d => (h, d)) ∧
      t.responses = s.responses ++ [.delivered (BitVec.ofNat 32 (snapshotsOf r.2).length)] ∧
      t.rom = s.rom ∧ t.feedMode = s.feedMode ∧ t.mem = s.mem ∧ t.queue = s.queue ∧ t.faults = s.faults ∧
      t.draws = s.draws

/-- 43_parser R217: FEED's response is the number of events it appended, without a wrap; in BULK mode at most 136, in
PER_BYTE mode at most n / 30 + 1 (for a slot in a state that a response leaves, R37). -/
def Obligations.DeliveredCountsTheEvents : Prop :=
  ∀ (s : State) (h : Nat) (p : Slot) (a : Addr) (n : Len),
    s.slot? h = some p → p.live = true →
    ∃ t d, exec (.feed h (some a) n) s = .next t ∧ t.responses = s.responses ++ [.delivered d] ∧
      t.events.length = s.events.length + d.toNat ∧
      (s.feedMode = .bulk → p.count.toNat ≤ 4096 → d.toNat ≤ 136) ∧
      (s.feedMode = .perByte → p.BoundsOk → p.Quiescent → d.toNat ≤ n.toNat / 30 + 1)

/-- 43_parser R218: RESET of a LIVE slot; a NULL handle is a no-op. -/
def Obligations.ResetReturnsToSeeking : Prop :=
  ∀ (s : State) (h : Nat) (p : Slot),
    (s.slot? h = some p → p.live = true →
      ∃ t, exec (.reset h) s = .next t ∧
        t.slot? h = some { p with scan := .seekingStart, expLen := 0#11, head := 0#12, count := 0#13 } ∧
        (∀ h', h' ≠ h → t.slot? h' = s.slot? h') ∧ t.slots.length = s.slots.length ∧
        t.responses = s.responses ++ [.done] ∧
        t.rom = s.rom ∧ t.feedMode = s.feedMode ∧ t.mem = s.mem ∧ t.queue = s.queue ∧ t.events = s.events ∧
        t.drops = s.drops ∧ t.faults = s.faults ∧ t.draws = s.draws) ∧
    exec (.reset 0) s = .next { s with responses := s.responses ++ [.done] }

/-- 43_parser R219: DESTROY of a LIVE slot clears LIVE; of a NULL handle or a FREE slot it is a no-op; of a number outside
1..N_INSTANCES it records INVALID_HANDLE. -/
def Obligations.DestroyFreesTheSlot : Prop :=
  ∀ (s : State) (h : Nat) (p : Slot),
    (s.slot? h = some p → p.live = true →
      ∃ t r, exec (.destroy h) s = .next t ∧ t.slot? h = some r ∧ r.live = false ∧
        (∀ h', h' ≠ h → t.slot? h' = s.slot? h') ∧ t.slots.length = s.slots.length ∧
        t.responses = s.responses ++ [.done] ∧
        t.rom = s.rom ∧ t.feedMode = s.feedMode ∧ t.mem = s.mem ∧ t.queue = s.queue ∧ t.events = s.events ∧
        t.drops = s.drops ∧ t.faults = s.faults ∧ t.draws = s.draws) ∧
    (h = 0 ∨ (s.slot? h = some p ∧ p.live = false) →
      exec (.destroy h) s = .next { s with responses := s.responses ++ [.done] }) ∧
    (s.faults = [] → s.slots.length < h → exec (.destroy h) s = .next { s with faults := [.invalidHandle] })

/-! ### The ring -/

/-- 20_memory R66: RingPush stores at HEAD and moves it. On the logical contents: with room the byte is appended; at
COUNT = 4096 the oldest byte is lost. Every other register stays (43_parser R237). -/
def Obligations.RingPushAppendsOrOverwrites : Prop :=
  ∀ (p : Slot) (b : Byte), Memory.wf p.ring = true → p.count.toNat ≤ 4096 →
    (p.push b).contents = (if p.count.toNat < 4096 then p.contents ++ [b] else p.contents.drop 1 ++ [b]) ∧
    (p.push b).head.toNat = (p.head.toNat + 1) % 4096 ∧
    (p.push b).count.toNat = min (p.count.toNat + 1) 4096 ∧
    Memory.read (p.push b).ring p.head.toNat = b ∧
    (∀ x, x ≠ p.head.toNat → Memory.read (p.push b).ring x = Memory.read p.ring x) ∧
    (p.push b).scan = p.scan ∧ (p.push b).expLen = p.expLen ∧ (p.push b).live = p.live ∧
    (p.push b).cb = p.cb ∧ (p.push b).ctx = p.ctx

/-- 20_memory R67, R68: RingDiscard lowers COUNT, drops the oldest bytes and leaves HEAD and RING alone; RingCopy reads the
oldest bytes. -/
def Obligations.RingDiscardAndCopy : Prop :=
  ∀ (p : Slot) (n : Nat), n ≤ p.count.toNat →
    (p.discard n).count.toNat = p.count.toNat - n ∧
    (p.discard n).contents = p.contents.drop n ∧ (p.discard n).head = p.head ∧ (p.discard n).ring = p.ring ∧
    (p.discard n).start.toNat = (p.start.toNat + n) % 4096 ∧
    p.copy n = p.contents.take n

/-- 43_parser R215, R259: after the pushes of a BULK FEED only the last 4096 bytes of (buffered ++ input) remain. -/
def Obligations.BulkPushKeepsTheLastBytes : Prop :=
  ∀ (p : Slot) (bs : List Byte), Memory.wf p.ring = true → p.count.toNat ≤ 4096 →
    (p.pushAll bs).contents = (p.contents ++ bs).drop (p.count.toNat + bs.length - 4096) ∧
    (p.pushAll bs).scan = p.scan ∧ (p.pushAll bs).expLen = p.expLen

/-! ### The scanner -/

/-- 43_parser R221 to R227, R238: the rows of the step selection table but A_TAKE. The rows exclude one another. -/
def Obligations.StepSelectionTable : Prop :=
  ∀ (rom : Rom) (p : Slot),
    let hok := ck8 rom [p.ringAt 0, p.ringAt 1, p.ringAt 2] = p.ringAt 3
    let len := ((p.ringAt 1).toNat + 256 * (p.ringAt 2).toNat) % 1024
    (p.scan = .seekingStart →
      (p.count.toNat = 0 → p.scanStep rom = none) ∧
      (1 ≤ p.count.toNat → p.ringAt 0 ≠ 0x55#8 →
        p.scanStep rom = some (p.discard 1, some (.dropped .notSof))) ∧
      (1 ≤ p.count.toNat → p.count.toNat ≤ 3 → p.ringAt 0 = 0x55#8 → p.scanStep rom = none) ∧
      (4 ≤ p.count.toNat → p.ringAt 0 = 0x55#8 → ¬ hok →
        p.scanStep rom = some (p.discard 1, some (.dropped .hdrCk))) ∧
      (4 ≤ p.count.toNat → p.ringAt 0 = 0x55#8 → hok → len < 13 →
        p.scanStep rom = some (p.discard 1, some (.dropped .lenRange))) ∧
      (4 ≤ p.count.toNat → p.ringAt 0 = 0x55#8 → hok → 13 ≤ len →
        p.scanStep rom =
          some ({ p with scan := .accumulatingFrame, expLen := BitVec.ofNat 11 len }, none))) ∧
    (p.scan = .accumulatingFrame → p.count.toNat < p.expLen.toNat → p.scanStep rom = none)

/-- 43_parser R228: A_TAKE copies EXPLEN bytes, discards them and returns to SEEKING_START whatever the classification. -/
def Obligations.TakeConsumesTheCandidate : Prop :=
  ∀ (rom : Rom) (p : Slot), p.scan = .accumulatingFrame → p.expLen.toNat ≤ p.count.toNat →
    ∃ q, p.scanStep rom = some (q, some (classify rom (p.contents.take p.expLen.toNat))) ∧
      q.scan = .seekingStart ∧ q.contents = p.contents.drop p.expLen.toNat ∧
      q.count.toNat = p.count.toNat - p.expLen.toNat ∧ q.head = p.head ∧ q.ring = p.ring ∧
      q.expLen = p.expLen ∧ q.live = p.live ∧ q.cb = p.cb ∧ q.ctx = p.ctx

/-- 43_parser R229 to R232, 60_exceptions R275: the classification of a candidate of at least 13 bytes, in that order. -/
def Obligations.ClassificationOfCandidates : Prop :=
  ∀ (rom : Rom) (f : List Byte), 13 ≤ f.length →
    let l := f.length
    let passes := (ck16 rom (f.take (l - 2))).toNat = (byteAt f (l - 2)).toNat + 256 * (byteAt f (l - 1)).toNat
    let push := byteAt f 9 = 0x06#8 ∧ byteAt f 10 = 0x05#8
    (¬ passes → classify rom f = .dropped .frameCk) ∧
    (passes → ¬ push → classify rom f = .dropped .notPush) ∧
    (passes → push → l < 30 → classify rom f = .dropped .shortPush) ∧
    (passes → push → 30 ≤ l → classify rom f = .accepted (decodePayload ((f.drop 11).take 17)))

/-- 43_parser R233: VER, bytes 3 to 8 and the payload after its first 17 bytes are not read: they matter through the frame
checksum alone. -/
def Obligations.UnreadFrameFieldsHaveNoEffect : Prop :=
  ∀ (rom : Rom) (f g : List Byte), f.length = g.length → 13 ≤ f.length →
    frameOk rom f = true → frameOk rom g = true →
    (∀ k, 9 ≤ k → k ≤ 27 → byteAt f k = byteAt g k) → classify rom f = classify rom g

/-- 43_parser R250: when Scan returns, one of (a), (b), (c) holds, COUNT is at most 1022, and a second Scan changes
nothing. -/
def Obligations.ScanEndsQuiescent : Prop :=
  ∀ (rom : Rom) (p : Slot), p.BoundsOk →
    (p.runScan rom).1.Quiescent ∧ (p.runScan rom).1.BoundsOk ∧ (p.runScan rom).1.count.toNat ≤ 1022 ∧
    (p.runScan rom).1.runScan rom = ((p.runScan rom).1, [])

/-- 43_parser R251: Scan takes at most 2 C + 1 steps, the last of which awaits. -/
def Obligations.ScanTerminates : Prop :=
  ∀ (rom : Rom) (p : Slot), p.BoundsOk →
    (Slot.scanFor rom (2 * p.count.toNat) p).1.scanStep rom = none ∧
    ∀ k, 2 * p.count.toNat ≤ k → Slot.scanFor rom k p = p.runScan rom

/-- 43_parser R253: without an overwrite BULK and PER_BYTE agree: the same registers, ring, events and drops. -/
def Obligations.BulkAndPerByteAgree : Prop :=
  ∀ (rom : Rom) (p : Slot) (bs : List Byte), p.BoundsOk → p.Quiescent → p.count.toNat + bs.length ≤ 4096 →
    p.feedBulk rom bs = p.feedPerByte rom bs

/-- 43_parser R253: chunking invariance. Without an overwrite, a FEED of a ++ b is a FEED of a and then a FEED of b. -/
def Obligations.ChunkingInvariance : Prop :=
  ∀ (rom : Rom) (mode : FeedMode) (p : Slot) (a b : List Byte), p.BoundsOk → p.Quiescent →
    p.NoOverwrite mode (a.length + b.length) →
    p.feed rom mode (a ++ b) =
      (((p.feed rom mode a).1.feed rom mode b).1,
       (p.feed rom mode a).2 ++ ((p.feed rom mode a).1.feed rom mode b).2)

/-- 43_parser R254: bytes other than 0x55 that come before a stream at a frame boundary change no event, and what stays
buffered is the same. -/
def Obligations.LeadingGarbageIsInvisible : Prop :=
  ∀ (rom : Rom) (mode : FeedMode) (p : Slot) (garbage bs : List Byte),
    Memory.wf p.ring = true → p.scan = .seekingStart → p.count = 0#13 → (∀ b ∈ garbage, b ≠ 0x55#8) →
    p.NoOverwrite mode (garbage.length + bs.length) →
    snapshotsOf (p.feed rom mode (garbage ++ bs)).2 = snapshotsOf (p.feed rom mode bs).2 ∧
    (p.feed rom mode (garbage ++ bs)).1.scan = (p.feed rom mode bs).1.scan ∧
    (p.feed rom mode (garbage ++ bs)).1.contents = (p.feed rom mode bs).1.contents

/-- 43_parser R255: overflow recovery. A FEED that ends with at least 1022 bytes other than 0x55 leaves an empty parser in
SEEKING_START, whatever came before, in either mode, with or without an overwrite. -/
def Obligations.OverflowRecovery : Prop :=
  ∀ (rom : Rom) (mode : FeedMode) (p : Slot) (before tail : List Byte),
    p.RingOk → p.RegistersOk → 1022 ≤ tail.length → (∀ b ∈ tail, b ≠ 0x55#8) →
    (p.feed rom mode (before ++ tail)).1.scan = .seekingStart ∧ (p.feed rom mode (before ++ tail)).1.count = 0#13

/-- 43_parser R256, 20_memory R65: after RESET a slot behaves as one just created: the same events, drops, STATE, EXPLEN and
logical contents, whatever RING held. -/
def Obligations.ResetSlotBehavesAsFresh : Prop :=
  ∀ (rom : Rom) (mode : FeedMode) (p : Slot) (bs : List Byte), Memory.wf p.ring = true →
    let used := p.clear.feed rom mode bs
    let fresh := (Slot.free.create p.cb p.ctx).feed rom mode bs
    used.2 = fresh.2 ∧ used.1.scan = fresh.1.scan ∧ used.1.expLen = fresh.1.expLen ∧
    used.1.contents = fresh.1.contents

/-- 10_state R38: without an overwrite the latched header stays at Ring[0..3]. -/
def Obligations.LatchedHeaderStaysInPlace : Prop :=
  ∀ (rom : Rom) (mode : FeedMode) (p : Slot) (bs : List Byte),
    p.BoundsOk → p.Quiescent → p.NoOverwrite mode bs.length → p.HeaderLatched rom →
    (p.feed rom mode bs).1.HeaderLatched rom

/-! ### Message dispatch -/

/-- 43_parser R231, R232, R236: RC_PUSH on a LIVE instance emits one event, the decoded first 17 payload bytes with the
instance's bindings, or drops SHORT_PUSH below 30 bytes; nothing else changes. -/
def Obligations.RcPushEmitsOrDrops : Prop :=
  ∀ (s : State) (h : Nat) (p : Slot) (f : List Byte), s.slot? h = some p → p.live = true →
    (30 ≤ f.length →
      exec (.rcPush h f) s = .next { s with
        events := s.events ++ [⟨h, p.cb, p.ctx, decodePayload ((f.drop 11).take 17)⟩] }) ∧
    (f.length < 30 → exec (.rcPush h f) s = .next { s with drops := s.drops ++ [(h, .shortPush)] })

/-- 43_parser R230: ENABLE, CHANNEL_REQUEST and OTHER on a LIVE instance drop NOT_PUSH; no event, nothing else changes. -/
def Obligations.OtherRowsDropTheFrame : Prop :=
  ∀ (s : State) (h : Nat) (p : Slot) (f : List Byte), s.slot? h = some p → p.live = true →
    exec (.enable h f) s = .next { s with drops := s.drops ++ [(h, .notPush)] } ∧
    exec (.channelRequest h f) s = .next { s with drops := s.drops ++ [(h, .notPush)] } ∧
    exec (.other h f) s = .next { s with drops := s.drops ++ [(h, .notPush)] }

/-- 30_encoding R112, 43_parser R228: what A_TAKE says of a candidate that passes the frame gate is what the row of the
opcode table that the candidate decodes to does. For an instance that is not LIVE, which the scanner never names, the row
records INVALID_HANDLE: the model's choice (log 17). -/
def Obligations.CandidateRunsItsTableRow : Prop :=
  ∀ (s : State) (h : Nat) (f : List Byte) (i : Instr), decode (.frame h) f = .ok i →
    (∀ p : Slot, s.slot? h = some p → p.live = true → frameOk s.rom f = true →
      exec i s = .next (s.deliver h p [classify s.rom f])) ∧
    (s.faults = [] → s.liveSlot? h = none → exec i s = .next { s with faults := [.invalidHandle] })

/-! ### Whole-machine rules -/

/-- 60_exceptions R331: every command completes: `exec` answers a next state for every instruction in every state. -/
def Obligations.EveryInstructionCompletes : Prop :=
  ∀ (i : Instr) (s : State), ∃ t, exec i s = .next t

/-- 10_state R32, R39: no step changes the ROMs, FEED_MODE or the number of slots. -/
def Obligations.StepKeepsTheConfiguration : Prop :=
  ∀ s t : State, step s = .next t → t.rom = s.rom ∧ t.feedMode = s.feedMode ∧ t.slots.length = s.slots.length

/-- 10_state R35, 60_exceptions R281: EVENTS and the responses are append-only, and no fault is ever cleared. -/
def Obligations.HistoriesOnlyGrow : Prop :=
  ∀ s t : State, step s = .next t →
    (∃ es, t.events = s.events ++ es) ∧ (∃ rs, t.responses = s.responses ++ rs) ∧ (∃ fs, t.faults = s.faults ++ fs)

/-- 60_exceptions R280: a command that records a fault adds its reason and changes no other state; it gets no response. -/
def Obligations.FaultingCommandChangesNothingElse : Prop :=
  ∀ (i : Instr) (s t : State), exec i s = .next t → t.faults ≠ s.faults →
    ∃ r, r ∉ s.faults ∧ t = { s with faults := s.faults ++ [r] }

/-- 10_state R23, R24, R41: only CREATE writes CB and CTX, and only CREATE and DESTROY write LIVE. -/
def Obligations.BindingsAreWrittenByCreateAlone : Prop :=
  ∀ (i : Instr) (s t : State) (h : Nat) (p : Slot), exec i s = .next t → (∀ cb ctx, i ≠ .create cb ctx) →
    s.slot? h = some p →
    ∃ q, t.slot? h = some q ∧ q.cb = p.cb ∧ q.ctx = p.ctx ∧ ((∀ h', i ≠ .destroy h') → q.live = p.live)

/-- 20_memory R63, 60_exceptions R287: a command on one instance leaves every other slot alone, and the commands without
an instance, but CREATE, and the dispatch rows leave every slot alone. -/
def Obligations.InstancesAreIndependent : Prop :=
  ∀ (i : Instr) (s t : State) (h : Nat), exec i s = .next t → (∀ cb ctx, i ≠ .create cb ctx) →
    targetOf i ≠ some h → t.slot? h = s.slot? h

/-- 60_exceptions R274: two states that differ in drop labels alone behave alike: a step of one is a step of the other, to
states that differ in drop labels alone. -/
def Obligations.DropLabelsAreUnobservable : Prop :=
  ∀ (s t : State) (d : List (Nat × DropReason)), step s = .next t →
    ∃ d', step { s with drops := d } = .next { t with drops := d' }

/-- 10_state R37: every step keeps the invariant: host memory and rings in canonical form, and for every LIVE slot COUNT at
most 4096, 13 <= EXPLEN <= 1023 and COUNT < EXPLEN while accumulating, Ring[0] = 0x55 and COUNT < 4 while seeking with
bytes buffered. -/
def Obligations.StepKeepsTheInvariant : Prop :=
  ∀ s t : State, s.Ok → step s = .next t → t.Ok

/-- The power-on state meets the invariant. -/
def Obligations.PowerOnMeetsTheInvariant : Prop := State.reset.Ok

/-- 70_reset R310: at power-on every slot is FREE, EVENTS and FAULTS are empty. -/
def Obligations.PowerOnState : Prop :=
  (∀ p ∈ State.reset.slots, p.live = false) ∧ State.reset.events = [] ∧ State.reset.faults = [] ∧
  1 ≤ State.reset.slots.length

/-! ### Encodings -/

/-- Decoding the words of a well-formed instruction gives it back, every operand at every value. -/
def Obligations.DecodeOfEncode : Prop :=
  ∀ i : Instr, WellFormed i = true → decode (portOf i) (encode i) = .ok i

/-- Each word has one meaning: bytes that decode are the words of the instruction they decode to. -/
def Obligations.EncodeOfDecode : Prop :=
  ∀ (port : Port) (bs : List Byte) (i : Instr), decode port bs = .ok i →
    encode i = bs ∧ portOf i = port ∧ WellFormed i = true

/-- 30_encoding R109, R112: all eight command codes on one concrete word each, the operands in the order of R109 and each
with a value of its own, an unassigned code, and the dispatch keys. The bytes that hold the operands are the model's
(log 2). -/
def Obligations.AssignedCodesDecode : Prop :=
  decode .command [0x01#8, 1#8, 2#8, 1#8, 0#8, 0#8, 0#8, 0#8, 0#8, 0#8, 3#8, 0#8, 0#8, 0#8] = .ok (.ck8 (some 258#64) 3#32) ∧
  decode .command (0x02#8 :: List.replicate 13 0#8) = .ok (.ck16 none 0#32) ∧
  decode .command [0x10#8, 1#8, 2#8, 1#8, 0#8, 0#8, 0#8, 0#8, 0#8, 0#8, 17#8, 0#8, 0#8, 0#8] =
    .ok (.decode (some 258#64) 17#32) ∧
  decode .command ([0x20#8, 1#8, 0x10#8, 0#8, 0#8, 0#8, 0#8, 0#8, 0#8, 0#8, 0x40#8, 0#8, 0#8, 0#8] ++
      [0x0A#8, 0x0B#8, 0x0C#8, 0x0D#8, 0x34#8, 0x12#8, 0x01#8, 0x03#8, 0x07#8, 0x06#8, 0x24#8] ++
      [1#8, 0x20#8, 0#8, 0#8, 0#8, 0#8, 0#8, 0#8, 0#8, 5#8, 0#8, 0#8, 0#8]) =
    .ok (.build (some 0x10#64) 0x40#32 0x0A#8 0x0B#8 0x0C#8 0x0D#8 0x1234#16 0x01#8 0x03#8 0x07#8 0x06#8 0x24#8
      (some 0x20#64) 5#32) ∧
  decode .command [0x30#8, 1#8, 7#8, 0#8, 0#8, 0#8, 0#8, 0#8, 0#8, 0#8, 1#8, 9#8, 0#8, 0#8, 0#8, 0#8, 0#8, 0#8, 0#8] =
    .ok (.create (some 7#64) (some 9#64)) ∧
  decode .command [0x31#8, 2#8, 0#8, 0#8, 0#8, 1#8, 0#8, 1#8, 0#8, 0#8, 0#8, 0#8, 0#8, 0#8, 30#8, 0#8, 0#8, 0#8] =
    .ok (.feed 2 (some 256#64) 30#32) ∧
  decode .command [0x32#8, 0x02#8, 0x01#8, 0#8, 0#8] = .ok (.reset 258) ∧
  decode .command [0x33#8, 0x01#8, 0#8, 0#8, 0#8] = .ok (.destroy 1) ∧
  decode .command [0x00#8] = .error .unassignedCode ∧
  frameKind 0x0605#16 = .rcPush ∧ frameKind 0x0624#16 = .enable ∧ frameKind 0x0601#16 = .channelRequest ∧
  frameKind 0x0506#16 = .other
end

