-- ==== Sys2Proof/Laws/State.lean ====
section
/-! SUPPORT. One lemma per field per update of State and of Slot, so that no proof unfolds a record update. -/

namespace Sys2Proof.Machine

/-! ### Updates of State -/

@[simp] theorem State.answer_eq (s : State) (c : Status) (v : Value) : s.answer c v = s.respond (.status c v) := rfl
@[simp] theorem State.raise_eq (s : State) (c : Status) : s.raise c = s.respond (.status c .none) := rfl

@[simp] theorem State.respond_rom (s : State) (r : Response) : (s.respond r).rom = s.rom := rfl
@[simp] theorem State.respond_feedMode (s : State) (r : Response) : (s.respond r).feedMode = s.feedMode := rfl
@[simp] theorem State.respond_slots (s : State) (r : Response) : (s.respond r).slots = s.slots := rfl
@[simp] theorem State.respond_mem (s : State) (r : Response) : (s.respond r).mem = s.mem := rfl
@[simp] theorem State.respond_queue (s : State) (r : Response) : (s.respond r).queue = s.queue := rfl
@[simp] theorem State.respond_responses (s : State) (r : Response) : (s.respond r).responses = s.responses ++ [r] := rfl
@[simp] theorem State.respond_events (s : State) (r : Response) : (s.respond r).events = s.events := rfl
@[simp] theorem State.respond_drops (s : State) (r : Response) : (s.respond r).drops = s.drops := rfl
@[simp] theorem State.respond_faults (s : State) (r : Response) : (s.respond r).faults = s.faults := rfl
@[simp] theorem State.respond_draws (s : State) (r : Response) : (s.respond r).draws = s.draws := rfl

@[simp] theorem State.recordFault_rom (s : State) (r : FaultReason) : (s.recordFault r).rom = s.rom := rfl
@[simp] theorem State.recordFault_feedMode (s : State) (r : FaultReason) : (s.recordFault r).feedMode = s.feedMode := rfl
@[simp] theorem State.recordFault_slots (s : State) (r : FaultReason) : (s.recordFault r).slots = s.slots := rfl
@[simp] theorem State.recordFault_mem (s : State) (r : FaultReason) : (s.recordFault r).mem = s.mem := rfl
@[simp] theorem State.recordFault_queue (s : State) (r : FaultReason) : (s.recordFault r).queue = s.queue := rfl
@[simp] theorem State.recordFault_responses (s : State) (r : FaultReason) : (s.recordFault r).responses = s.responses := rfl
@[simp] theorem State.recordFault_events (s : State) (r : FaultReason) : (s.recordFault r).events = s.events := rfl
@[simp] theorem State.recordFault_drops (s : State) (r : FaultReason) : (s.recordFault r).drops = s.drops := rfl
@[simp] theorem State.recordFault_faults (s : State) (r : FaultReason) : (s.recordFault r).faults = if r ∈ s.faults then s.faults else s.faults ++ [r] := rfl
@[simp] theorem State.recordFault_draws (s : State) (r : FaultReason) : (s.recordFault r).draws = s.draws := rfl

@[simp] theorem State.deliver_rom (s : State) (h : Nat) (p : Slot) (ls : List Label) : (s.deliver h p ls).rom = s.rom := rfl
@[simp] theorem State.deliver_feedMode (s : State) (h : Nat) (p : Slot) (ls : List Label) : (s.deliver h p ls).feedMode = s.feedMode := rfl
@[simp] theorem State.deliver_slots (s : State) (h : Nat) (p : Slot) (ls : List Label) : (s.deliver h p ls).slots = s.slots := rfl
@[simp] theorem State.deliver_mem (s : State) (h : Nat) (p : Slot) (ls : List Label) : (s.deliver h p ls).mem = s.mem := rfl
@[simp] theorem State.deliver_queue (s : State) (h : Nat) (p : Slot) (ls : List Label) : (s.deliver h p ls).queue = s.queue := rfl
@[simp] theorem State.deliver_responses (s : State) (h : Nat) (p : Slot) (ls : List Label) : (s.deliver h p ls).responses = s.responses := rfl
@[simp] theorem State.deliver_events (s : State) (h : Nat) (p : Slot) (ls : List Label) : (s.deliver h p ls).events = s.events ++ (snapshotsOf ls).map (p.event h) := rfl
@[simp] theorem State.deliver_drops (s : State) (h : Nat) (p : Slot) (ls : List Label) : (s.deliver h p ls).drops = s.drops ++ (reasonsOf ls).map (fun r => (h, r)) := rfl
@[simp] theorem State.deliver_faults (s : State) (h : Nat) (p : Slot) (ls : List Label) : (s.deliver h p ls).faults = s.faults := rfl
@[simp] theorem State.deliver_draws (s : State) (h : Nat) (p : Slot) (ls : List Label) : (s.deliver h p ls).draws = s.draws := rfl

@[simp] theorem State.store_rom (s : State) (a : Nat) (bs : List Byte) : (s.store a bs).rom = s.rom := rfl
@[simp] theorem State.store_feedMode (s : State) (a : Nat) (bs : List Byte) : (s.store a bs).feedMode = s.feedMode := rfl
@[simp] theorem State.store_slots (s : State) (a : Nat) (bs : List Byte) : (s.store a bs).slots = s.slots := rfl
@[simp] theorem State.store_mem (s : State) (a : Nat) (bs : List Byte) : (s.store a bs).mem = Memory.writeBytes s.mem a bs := rfl
@[simp] theorem State.store_queue (s : State) (a : Nat) (bs : List Byte) : (s.store a bs).queue = s.queue := rfl
@[simp] theorem State.store_responses (s : State) (a : Nat) (bs : List Byte) : (s.store a bs).responses = s.responses := rfl
@[simp] theorem State.store_events (s : State) (a : Nat) (bs : List Byte) : (s.store a bs).events = s.events := rfl
@[simp] theorem State.store_drops (s : State) (a : Nat) (bs : List Byte) : (s.store a bs).drops = s.drops := rfl
@[simp] theorem State.store_faults (s : State) (a : Nat) (bs : List Byte) : (s.store a bs).faults = s.faults := rfl
@[simp] theorem State.store_draws (s : State) (a : Nat) (bs : List Byte) : (s.store a bs).draws = s.draws := rfl

@[simp] theorem State.drawn_rom (s : State) (n : Nat) : (s.drawn n).rom = s.rom := rfl
@[simp] theorem State.drawn_feedMode (s : State) (n : Nat) : (s.drawn n).feedMode = s.feedMode := rfl
@[simp] theorem State.drawn_slots (s : State) (n : Nat) : (s.drawn n).slots = s.slots := rfl
@[simp] theorem State.drawn_mem (s : State) (n : Nat) : (s.drawn n).mem = s.mem := rfl
@[simp] theorem State.drawn_queue (s : State) (n : Nat) : (s.drawn n).queue = s.queue := rfl
@[simp] theorem State.drawn_responses (s : State) (n : Nat) : (s.drawn n).responses = s.responses := rfl
@[simp] theorem State.drawn_events (s : State) (n : Nat) : (s.drawn n).events = s.events := rfl
@[simp] theorem State.drawn_drops (s : State) (n : Nat) : (s.drawn n).drops = s.drops := rfl
@[simp] theorem State.drawn_faults (s : State) (n : Nat) : (s.drawn n).faults = s.faults := rfl
@[simp] theorem State.drawn_draws (s : State) (n : Nat) : (s.drawn n).draws = s.draws + n := rfl

@[simp] theorem State.updateSlot_rom (s : State) (h : Nat) (g : Slot → Slot) : (s.updateSlot h g).rom = s.rom := by
  cases h <;> rfl
@[simp] theorem State.updateSlot_feedMode (s : State) (h : Nat) (g : Slot → Slot) : (s.updateSlot h g).feedMode = s.feedMode := by
  cases h <;> rfl
@[simp] theorem State.updateSlot_mem (s : State) (h : Nat) (g : Slot → Slot) : (s.updateSlot h g).mem = s.mem := by
  cases h <;> rfl
@[simp] theorem State.updateSlot_queue (s : State) (h : Nat) (g : Slot → Slot) : (s.updateSlot h g).queue = s.queue := by
  cases h <;> rfl
@[simp] theorem State.updateSlot_responses (s : State) (h : Nat) (g : Slot → Slot) : (s.updateSlot h g).responses = s.responses := by
  cases h <;> rfl
@[simp] theorem State.updateSlot_events (s : State) (h : Nat) (g : Slot → Slot) : (s.updateSlot h g).events = s.events := by
  cases h <;> rfl
@[simp] theorem State.updateSlot_drops (s : State) (h : Nat) (g : Slot → Slot) : (s.updateSlot h g).drops = s.drops := by
  cases h <;> rfl
@[simp] theorem State.updateSlot_faults (s : State) (h : Nat) (g : Slot → Slot) : (s.updateSlot h g).faults = s.faults := by
  cases h <;> rfl
@[simp] theorem State.updateSlot_draws (s : State) (h : Nat) (g : Slot → Slot) : (s.updateSlot h g).draws = s.draws := by
  cases h <;> rfl
@[simp] theorem State.updateSlot_zero (s : State) (g : Slot → Slot) : s.updateSlot 0 g = s := rfl
@[simp] theorem State.updateSlot_slots_succ (s : State) (k : Nat) (g : Slot → Slot) :
    (s.updateSlot (k + 1) g).slots = s.slots.modify k g := rfl
@[simp] theorem State.updateSlot_slots_length (s : State) (h : Nat) (g : Slot → Slot) :
    (s.updateSlot h g).slots.length = s.slots.length := by
  cases h <;> simp

/-! ### Updates of host memory by BUILD -/

@[simp] theorem State.writeFrame_rom (s : State) (out : Ref) (f : List Byte) : (s.writeFrame out f).rom = s.rom := by
  cases out <;> rfl
@[simp] theorem State.writeFrame_feedMode (s : State) (out : Ref) (f : List Byte) : (s.writeFrame out f).feedMode = s.feedMode := by
  cases out <;> rfl
@[simp] theorem State.writeFrame_slots (s : State) (out : Ref) (f : List Byte) : (s.writeFrame out f).slots = s.slots := by
  cases out <;> rfl
@[simp] theorem State.writeFrame_queue (s : State) (out : Ref) (f : List Byte) : (s.writeFrame out f).queue = s.queue := by
  cases out <;> rfl
@[simp] theorem State.writeFrame_responses (s : State) (out : Ref) (f : List Byte) : (s.writeFrame out f).responses = s.responses := by
  cases out <;> rfl
@[simp] theorem State.writeFrame_events (s : State) (out : Ref) (f : List Byte) : (s.writeFrame out f).events = s.events := by
  cases out <;> rfl
@[simp] theorem State.writeFrame_drops (s : State) (out : Ref) (f : List Byte) : (s.writeFrame out f).drops = s.drops := by
  cases out <;> rfl
@[simp] theorem State.writeFrame_faults (s : State) (out : Ref) (f : List Byte) : (s.writeFrame out f).faults = s.faults := by
  cases out <;> rfl
@[simp] theorem State.writeFrame_draws (s : State) (out : Ref) (f : List Byte) : (s.writeFrame out f).draws = s.draws := by
  cases out <;> rfl
@[simp] theorem State.scribble_rom (s : State) (out : Ref) (cap : Len) : (s.scribble out cap).rom = s.rom := by
  cases out <;> rfl
@[simp] theorem State.scribble_feedMode (s : State) (out : Ref) (cap : Len) : (s.scribble out cap).feedMode = s.feedMode := by
  cases out <;> rfl
@[simp] theorem State.scribble_slots (s : State) (out : Ref) (cap : Len) : (s.scribble out cap).slots = s.slots := by
  cases out <;> rfl
@[simp] theorem State.scribble_queue (s : State) (out : Ref) (cap : Len) : (s.scribble out cap).queue = s.queue := by
  cases out <;> rfl
@[simp] theorem State.scribble_responses (s : State) (out : Ref) (cap : Len) : (s.scribble out cap).responses = s.responses := by
  cases out <;> rfl
@[simp] theorem State.scribble_events (s : State) (out : Ref) (cap : Len) : (s.scribble out cap).events = s.events := by
  cases out <;> rfl
@[simp] theorem State.scribble_drops (s : State) (out : Ref) (cap : Len) : (s.scribble out cap).drops = s.drops := by
  cases out <;> rfl
@[simp] theorem State.scribble_faults (s : State) (out : Ref) (cap : Len) : (s.scribble out cap).faults = s.faults := by
  cases out <;> rfl

/-! ### Updates of Slot -/

@[simp] theorem Slot.seek_live (p : Slot) : (p.seek).live = p.live := rfl
@[simp] theorem Slot.seek_cb (p : Slot) : (p.seek).cb = p.cb := rfl
@[simp] theorem Slot.seek_ctx (p : Slot) : (p.seek).ctx = p.ctx := rfl
@[simp] theorem Slot.seek_scan (p : Slot) : (p.seek).scan = .seekingStart := rfl
@[simp] theorem Slot.seek_expLen (p : Slot) : (p.seek).expLen = p.expLen := rfl
@[simp] theorem Slot.seek_head (p : Slot) : (p.seek).head = p.head := rfl
@[simp] theorem Slot.seek_count (p : Slot) : (p.seek).count = p.count := rfl
@[simp] theorem Slot.seek_ring (p : Slot) : (p.seek).ring = p.ring := rfl

@[simp] theorem Slot.latch_live (p : Slot) (n : Nat) : (p.latch n).live = p.live := rfl
@[simp] theorem Slot.latch_cb (p : Slot) (n : Nat) : (p.latch n).cb = p.cb := rfl
@[simp] theorem Slot.latch_ctx (p : Slot) (n : Nat) : (p.latch n).ctx = p.ctx := rfl
@[simp] theorem Slot.latch_scan (p : Slot) (n : Nat) : (p.latch n).scan = .accumulatingFrame := rfl
@[simp] theorem Slot.latch_expLen (p : Slot) (n : Nat) : (p.latch n).expLen = BitVec.ofNat 11 n := rfl
@[simp] theorem Slot.latch_head (p : Slot) (n : Nat) : (p.latch n).head = p.head := rfl
@[simp] theorem Slot.latch_count (p : Slot) (n : Nat) : (p.latch n).count = p.count := rfl
@[simp] theorem Slot.latch_ring (p : Slot) (n : Nat) : (p.latch n).ring = p.ring := rfl

@[simp] theorem Slot.push_live (p : Slot) (b : Byte) : (p.push b).live = p.live := rfl
@[simp] theorem Slot.push_cb (p : Slot) (b : Byte) : (p.push b).cb = p.cb := rfl
@[simp] theorem Slot.push_ctx (p : Slot) (b : Byte) : (p.push b).ctx = p.ctx := rfl
@[simp] theorem Slot.push_scan (p : Slot) (b : Byte) : (p.push b).scan = p.scan := rfl
@[simp] theorem Slot.push_expLen (p : Slot) (b : Byte) : (p.push b).expLen = p.expLen := rfl
@[simp] theorem Slot.push_head (p : Slot) (b : Byte) : (p.push b).head = p.head + 1#12 := rfl
@[simp] theorem Slot.push_count (p : Slot) (b : Byte) : (p.push b).count = if p.count.toNat < ringCap then p.count + 1#13 else p.count := rfl
@[simp] theorem Slot.push_ring (p : Slot) (b : Byte) : (p.push b).ring = Memory.write p.ring p.head.toNat b := rfl

@[simp] theorem Slot.discard_live (p : Slot) (n : Nat) : (p.discard n).live = p.live := rfl
@[simp] theorem Slot.discard_cb (p : Slot) (n : Nat) : (p.discard n).cb = p.cb := rfl
@[simp] theorem Slot.discard_ctx (p : Slot) (n : Nat) : (p.discard n).ctx = p.ctx := rfl
@[simp] theorem Slot.discard_scan (p : Slot) (n : Nat) : (p.discard n).scan = p.scan := rfl
@[simp] theorem Slot.discard_expLen (p : Slot) (n : Nat) : (p.discard n).expLen = p.expLen := rfl
@[simp] theorem Slot.discard_head (p : Slot) (n : Nat) : (p.discard n).head = p.head := rfl
@[simp] theorem Slot.discard_count (p : Slot) (n : Nat) : (p.discard n).count = p.count - BitVec.ofNat 13 n := rfl
@[simp] theorem Slot.discard_ring (p : Slot) (n : Nat) : (p.discard n).ring = p.ring := rfl

@[simp] theorem Slot.clear_live (p : Slot) : (p.clear).live = p.live := rfl
@[simp] theorem Slot.clear_cb (p : Slot) : (p.clear).cb = p.cb := rfl
@[simp] theorem Slot.clear_ctx (p : Slot) : (p.clear).ctx = p.ctx := rfl
@[simp] theorem Slot.clear_scan (p : Slot) : (p.clear).scan = .seekingStart := rfl
@[simp] theorem Slot.clear_expLen (p : Slot) : (p.clear).expLen = 0#11 := rfl
@[simp] theorem Slot.clear_head (p : Slot) : (p.clear).head = 0#12 := rfl
@[simp] theorem Slot.clear_count (p : Slot) : (p.clear).count = 0#13 := rfl
@[simp] theorem Slot.clear_ring (p : Slot) : (p.clear).ring = p.ring := rfl

@[simp] theorem Slot.create_live (p : Slot) (cb ctx : Option Token) : (p.create cb ctx).live = true := rfl
@[simp] theorem Slot.create_cb (p : Slot) (cb ctx : Option Token) : (p.create cb ctx).cb = cb := rfl
@[simp] theorem Slot.create_ctx (p : Slot) (cb ctx : Option Token) : (p.create cb ctx).ctx = ctx := rfl
@[simp] theorem Slot.create_scan (p : Slot) (cb ctx : Option Token) : (p.create cb ctx).scan = .seekingStart := rfl
@[simp] theorem Slot.create_expLen (p : Slot) (cb ctx : Option Token) : (p.create cb ctx).expLen = 0#11 := rfl
@[simp] theorem Slot.create_head (p : Slot) (cb ctx : Option Token) : (p.create cb ctx).head = 0#12 := rfl
@[simp] theorem Slot.create_count (p : Slot) (cb ctx : Option Token) : (p.create cb ctx).count = 0#13 := rfl
@[simp] theorem Slot.create_ring (p : Slot) (cb ctx : Option Token) : (p.create cb ctx).ring = p.ring := rfl

@[simp] theorem Slot.release_live (p : Slot) : (p.release).live = false := rfl
@[simp] theorem Slot.release_cb (p : Slot) : (p.release).cb = p.cb := rfl
@[simp] theorem Slot.release_ctx (p : Slot) : (p.release).ctx = p.ctx := rfl
@[simp] theorem Slot.release_scan (p : Slot) : (p.release).scan = p.scan := rfl
@[simp] theorem Slot.release_expLen (p : Slot) : (p.release).expLen = p.expLen := rfl
@[simp] theorem Slot.release_head (p : Slot) : (p.release).head = p.head := rfl
@[simp] theorem Slot.release_count (p : Slot) : (p.release).count = p.count := rfl
@[simp] theorem Slot.release_ring (p : Slot) : (p.release).ring = p.ring := rfl

end Sys2Proof.Machine
end

