-- ==== Sys2Proof/Laws/Slots.lean ====
section
/-! SUPPORT. Handles and slots: what `updateSlot` does to the slot it names and to every other, what `chooseSlot` answers,
and how the ring's primitives act on its logical contents. -/

namespace Sys2Proof.Machine

/-! ### Handles -/

@[simp] theorem State.slot?_zero (s : State) : s.slot? 0 = none := rfl

theorem State.slot?_succ (s : State) (k : Nat) : s.slot? (k + 1) = s.slots[k]? := rfl

/-- The slot that a handle names is changed. -/
theorem State.slot?_updateSlot_self (s : State) (h : Nat) (g : Slot → Slot) :
    (s.updateSlot h g).slot? h = (s.slot? h).map g := by
  cases h with
  | zero => rfl
  | succ k => simp [State.slot?_succ]

/-- Every other slot is left alone. -/
theorem State.slot?_updateSlot_other (s : State) (h h' : Nat) (g : Slot → Slot) (hne : h' ≠ h) :
    (s.updateSlot h g).slot? h' = s.slot? h' := by
  cases h with
  | zero => rfl
  | succ k =>
    cases h' with
    | zero => rfl
    | succ k' =>
      have hk : k ≠ k' := fun e => hne (by rw [e])
      simp [State.slot?_succ, hk]

@[simp] theorem State.respond_slot? (s : State) (r : Response) (k : Nat) : (s.respond r).slot? k = s.slot? k := by
  cases k <;> rfl
@[simp] theorem State.respond_liveSlot? (s : State) (r : Response) (k : Nat) : (s.respond r).liveSlot? k = s.liveSlot? k := by
  simp [State.liveSlot?]
@[simp] theorem State.recordFault_slot? (s : State) (r : FaultReason) (k : Nat) : (s.recordFault r).slot? k = s.slot? k := by
  cases k <;> rfl
@[simp] theorem State.recordFault_liveSlot? (s : State) (r : FaultReason) (k : Nat) : (s.recordFault r).liveSlot? k = s.liveSlot? k := by
  simp [State.liveSlot?]
@[simp] theorem State.deliver_slot? (s : State) (h : Nat) (p : Slot) (ls : List Label) (k : Nat) : (s.deliver h p ls).slot? k = s.slot? k := by
  cases k <;> rfl
@[simp] theorem State.deliver_liveSlot? (s : State) (h : Nat) (p : Slot) (ls : List Label) (k : Nat) : (s.deliver h p ls).liveSlot? k = s.liveSlot? k := by
  simp [State.liveSlot?]
@[simp] theorem State.store_slot? (s : State) (a : Nat) (bs : List Byte) (k : Nat) : (s.store a bs).slot? k = s.slot? k := by
  cases k <;> rfl
@[simp] theorem State.store_liveSlot? (s : State) (a : Nat) (bs : List Byte) (k : Nat) : (s.store a bs).liveSlot? k = s.liveSlot? k := by
  simp [State.liveSlot?]
@[simp] theorem State.drawn_slot? (s : State) (n : Nat) (k : Nat) : (s.drawn n).slot? k = s.slot? k := by
  cases k <;> rfl
@[simp] theorem State.drawn_liveSlot? (s : State) (n : Nat) (k : Nat) : (s.drawn n).liveSlot? k = s.liveSlot? k := by
  simp [State.liveSlot?]
@[simp] theorem State.writeFrame_slot? (s : State) (out : Ref) (f : List Byte) (k : Nat) : (s.writeFrame out f).slot? k = s.slot? k := by
  cases out <;> cases k <;> rfl
@[simp] theorem State.writeFrame_liveSlot? (s : State) (out : Ref) (f : List Byte) (k : Nat) : (s.writeFrame out f).liveSlot? k = s.liveSlot? k := by
  simp [State.liveSlot?]
@[simp] theorem State.scribble_slot? (s : State) (out : Ref) (cap : Len) (k : Nat) : (s.scribble out cap).slot? k = s.slot? k := by
  cases out <;> cases k <;> rfl
@[simp] theorem State.scribble_liveSlot? (s : State) (out : Ref) (cap : Len) (k : Nat) : (s.scribble out cap).liveSlot? k = s.liveSlot? k := by
  simp [State.liveSlot?]

/-- Slots are read from the field `slots` alone. -/
theorem State.slot?_congr (s t : State) (h : Nat) (hs : s.slots = t.slots) : s.slot? h = t.slot? h := by
  cases h with
  | zero => rfl
  | succ k => rw [State.slot?_succ, State.slot?_succ, hs]

theorem State.liveSlot?_congr (s t : State) (h : Nat) (hs : s.slots = t.slots) :
    s.liveSlot? h = t.liveSlot? h := by
  rw [State.liveSlot?, State.liveSlot?, State.slot?_congr s t h hs]

/-- A LIVE slot is a slot with LIVE set. -/
theorem State.liveSlot?_eq_some (s : State) (h : Nat) (p : Slot) :
    s.liveSlot? h = some p ↔ s.slot? h = some p ∧ p.live = true := by
  simp [State.liveSlot?, Option.filter_eq_some_iff]

theorem State.liveSlot?_eq_none (s : State) (h : Nat) :
    s.liveSlot? h = none ↔ ∀ p, s.slot? h = some p → p.live = false := by
  simp [State.liveSlot?, Option.filter_eq_none_iff]

/-- A slot that a handle names is one of the slots. -/
theorem State.slot?_mem (s : State) (h : Nat) (p : Slot) (hp : s.slot? h = some p) : p ∈ s.slots := by
  cases h with
  | zero => exact absurd hp (by simp)
  | succ k => exact List.mem_of_getElem? hp

/-- A handle names a slot exactly in 1..N_INSTANCES. -/
theorem State.slot?_isSome (s : State) (h : Nat) : (s.slot? h).isSome = true ↔ 1 ≤ h ∧ h ≤ s.nInstances := by
  cases h with
  | zero => simp
  | succ k =>
    rw [State.slot?_succ, State.nInstances]
    simp

/-- A property that every slot has, and that the change keeps for the slots it is applied to, is kept. -/
theorem State.forall_updateSlot (s : State) (h : Nat) (g : Slot → Slot) (P : Slot → Prop)
    (hs : ∀ p ∈ s.slots, P p) (hg : ∀ p, s.slot? h = some p → P (g p)) :
    ∀ p ∈ (s.updateSlot h g).slots, P p := by
  cases h with
  | zero => exact hs
  | succ k =>
    intro p hp
    rw [State.updateSlot_slots_succ] at hp
    obtain ⟨j, hj⟩ := List.mem_iff_getElem?.mp hp
    rw [List.getElem?_modify] at hj
    obtain ⟨q, hq, rfl⟩ := Option.map_eq_some_iff.mp hj
    by_cases hkj : k = j
    · rw [if_pos hkj]; exact hg q (by rw [State.slot?_succ, hkj, hq])
    · rw [if_neg hkj]; exact hs q (List.mem_of_getElem? hq)

/-! ### The FREE slots -/

/-- The handles of the FREE slots are exactly the handles of slots with LIVE clear. -/
theorem State.mem_freeHandles (s : State) (h : Nat) :
    h ∈ s.freeHandles ↔ ∃ p, s.slot? h = some p ∧ p.live = false := by
  rw [State.freeHandles, List.mem_filter, Option.any_eq_true]
  constructor
  · rintro ⟨-, p, hp, hl⟩
    exact ⟨p, hp, by simpa using hl⟩
  · rintro ⟨p, hp, hl⟩
    have hi : (s.slot? h).isSome = true := by rw [hp]; rfl
    rw [State.slot?_isSome, State.nInstances] at hi
    exact ⟨List.mem_range'_1.mpr ⟨hi.1, by omega⟩, p, hp, by simpa using hl⟩

/-- CREATE takes a FREE slot (43_parser R210). -/
theorem State.chooseSlot_some (s : State) (h : Nat) (hc : s.chooseSlot = some h) :
    ∃ p, s.slot? h = some p ∧ p.live = false :=
  (State.mem_freeHandles s h).mp (List.mem_of_getElem? hc)

/-- CREATE finds no slot exactly when none is FREE (43_parser R211). -/
theorem State.chooseSlot_none (s : State) : s.chooseSlot = none ↔ s.freeHandles = [] := by
  rw [State.chooseSlot, List.getElem?_eq_none_iff]
  constructor
  · intro h
    by_contra hne
    have := Nat.mod_lt (Config.freeSlot s.draws) (List.length_pos_of_ne_nil hne)
    omega
  · intro h; simp [h]

/-! ### The ring (20_memory R65 to R68) -/

@[simp] theorem Slot.copy_length (p : Slot) (n : Nat) : (p.copy n).length = n := by simp [Slot.copy]

theorem Slot.getElem_copy (p : Slot) (n i : Nat) (hi : i < (p.copy n).length) : (p.copy n)[i] = p.ringAt i := by
  simp [Slot.copy]

@[simp] theorem Slot.contents_length (p : Slot) : p.contents.length = p.count.toNat := by simp [Slot.contents]

theorem Slot.byteAt_copy (p : Slot) (n i : Nat) (hi : i < n) : byteAt (p.copy n) i = p.ringAt i := by
  rw [byteAt, List.getD_eq_getElem _ _ (by simpa using hi), Slot.getElem_copy]

/-- START moves with HEAD and against COUNT. -/
theorem Slot.start_toNat (p : Slot) : p.start.toNat = (p.head.toNat + 8192 - p.count.toNat) % 4096 := by
  have h1 := p.head.isLt
  have h2 := p.count.isLt
  simp only [Slot.start, BitVec.toNat_sub, BitVec.toNat_setWidth]
  omega

theorem Slot.physical_eq (p : Slot) (i : Nat) :
    p.physical i = (p.head.toNat + 8192 - p.count.toNat + i) % 4096 := by
  rw [Slot.physical, Slot.start_toNat, ringCap]
  omega

theorem Slot.physical_lt (p : Slot) (i : Nat) : p.physical i < 4096 := by
  rw [Slot.physical_eq]; omega

/-- A logical read depends on HEAD, COUNT and RING alone. -/
theorem Slot.ringAt_congr (p q : Slot) (hh : p.head = q.head) (hc : p.count = q.count) (hr : p.ring = q.ring) (i : Nat) :
    p.ringAt i = q.ringAt i := by
  rw [Slot.ringAt, Slot.ringAt, Slot.physical_eq, Slot.physical_eq, hh, hc, hr]

theorem Slot.push_count_of_lt (p : Slot) (b : Byte) (h : p.count.toNat < 4096) :
    (p.push b).count.toNat = p.count.toNat + 1 := by
  have := p.count.isLt
  rw [Slot.push_count, ringCap, if_pos h, BitVec.toNat_add]
  simp only [BitVec.toNat_ofNat]
  omega

theorem Slot.push_head_toNat (p : Slot) (b : Byte) : (p.push b).head.toNat = (p.head.toNat + 1) % 4096 := by
  simp [Slot.push_head, BitVec.toNat_add]

/-- A push with room leaves every logical position below COUNT alone. -/
theorem Slot.ringAt_push_old (p : Slot) (b : Byte) (i : Nat) (h : p.count.toNat < 4096) (hi : i < p.count.toNat) :
    (p.push b).ringAt i = p.ringAt i := by
  have h1 := p.head.isLt
  rw [Slot.ringAt, Slot.ringAt, Slot.push_ring, Slot.physical_eq, Slot.physical_eq, Slot.push_count_of_lt p b h,
    Slot.push_head_toNat, Memory.read_write_other _ _ _ _ (by omega)]
  congr 1
  omega

/-- A push with room puts its byte at logical position COUNT. -/
theorem Slot.ringAt_push_new (p : Slot) (b : Byte) (h : p.count.toNat < 4096) (hw : Memory.wf p.ring = true) :
    (p.push b).ringAt p.count.toNat = b := by
  have h1 := p.head.isLt
  have h2 := p.count.isLt
  rw [Slot.ringAt, Slot.push_ring, Slot.physical_eq, Slot.push_count_of_lt p b h, Slot.push_head_toNat]
  rw [show ((p.head.toNat + 1) % 4096 + 8192 - (p.count.toNat + 1) + p.count.toNat) % 4096 = p.head.toNat by omega]
  exact Memory.read_write_self _ _ _ hw

theorem Slot.push_count_of_full (p : Slot) (b : Byte) (h : ¬ p.count.toNat < 4096) : (p.push b).count = p.count := by
  rw [Slot.push_count, ringCap, if_neg h]

/-- A push at COUNT = 4096 moves every logical position down by one and puts its byte last. -/
theorem Slot.ringAt_push_full (p : Slot) (b : Byte) (i : Nat) (h : p.count.toNat = 4096) (hi : i < 4096)
    (hw : Memory.wf p.ring = true) : (p.push b).ringAt i = if i = 4095 then b else p.ringAt (i + 1) := by
  have h1 := p.head.isLt
  rw [Slot.ringAt, Slot.push_ring, Slot.physical_eq, Slot.push_count_of_full p b (by omega), Slot.push_head_toNat, h]
  split
  · next h =>
    subst h
    rw [show ((p.head.toNat + 1) % 4096 + 8192 - 4096 + 4095) % 4096 = p.head.toNat by omega]
    exact Memory.read_write_self _ _ _ hw
  · rw [Memory.read_write_other _ _ _ _ (by omega), Slot.ringAt, Slot.physical_eq, h,
      show ((p.head.toNat + 1) % 4096 + 8192 - 4096 + i) % 4096 = (p.head.toNat + 8192 - 4096 + (i + 1)) % 4096 by omega]

theorem Slot.discard_count_toNat (p : Slot) (n : Nat) (h : n ≤ p.count.toNat) :
    (p.discard n).count.toNat = p.count.toNat - n := by
  have := p.count.isLt
  simp only [Slot.discard, BitVec.toNat_sub, BitVec.toNat_ofNat]
  omega

/-- A discard moves every logical position down. -/
theorem Slot.ringAt_discard (p : Slot) (n i : Nat) (h : n ≤ p.count.toNat) :
    (p.discard n).ringAt i = p.ringAt (n + i) := by
  have h1 := p.head.isLt
  have h2 := p.count.isLt
  rw [Slot.ringAt, Slot.ringAt, Slot.physical_eq, Slot.physical_eq, Slot.discard_count_toNat p n h]
  simp only [Slot.discard_head, Slot.discard_ring]
  congr 1
  omega

end Sys2Proof.Machine
end

