-- ==== Sys2Proof/Laws/Bits.lean ====
section
/-! SUPPORT. Byte order as arithmetic: what `u16le`, the byte splits and the masks are as natural numbers, and the laws of
`byteAt` and of little-endian lists. -/

namespace Sys2Proof.Machine

/-- `u16le` is low + 256 * high (00_scope R5). -/
@[simp] theorem u16le_toNat (b0 b1 : Byte) : (u16le b0 b1).toNat = b0.toNat + 256 * b1.toNat := by
  have h0 := b0.isLt
  have h1 := b1.isLt
  have h2 : b1.toNat * 2 ^ 8 % 2 ^ 16 = 2 ^ 8 * b1.toNat := by omega
  have h3 : b1.toNat % 2 ^ 16 = b1.toNat := by omega
  have h4 : b0.toNat % 2 ^ 16 = b0.toNat := by omega
  simp only [u16le, BitVec.toNat_or, BitVec.toNat_setWidth, BitVec.toNat_shiftLeft, Nat.shiftLeft_eq, h2, h3, h4]
  rw [Nat.or_comm, ← Nat.two_pow_add_eq_or_of_lt h0]
  omega

@[simp] theorem loByte_toNat (v : Half) : (loByte v).toNat = v.toNat % 256 := by
  simp [loByte, BitVec.extractLsb'_toNat]

@[simp] theorem hiByte_toNat (v : Half) : (hiByte v).toNat = v.toNat / 256 := by
  have := v.isLt
  simp [hiByte, BitVec.extractLsb'_toNat, Nat.shiftRight_eq_div_pow]
  omega

/-- A 16-bit value is read back from its two bytes (20_memory R60). -/
@[simp] theorem u16le_lo_hi (v : Half) : u16le (loByte v) (hiByte v) = v := by
  apply BitVec.eq_of_toNat_eq
  rw [u16le_toNat, loByte_toNat, hiByte_toNat]
  omega

theorem byteAt_of_lt (f : List Byte) (k : Nat) (h : k < f.length) : byteAt f k = f[k] := by
  rw [byteAt, List.getD_eq_getElem _ _ h]

theorem byteAt_append_left (f g : List Byte) (k : Nat) (h : k < f.length) : byteAt (f ++ g) k = byteAt f k := by
  rw [byteAt, byteAt, List.getD_append _ _ _ _ h]

theorem byteAt_append_right (f g : List Byte) (k : Nat) (h : f.length ≤ k) :
    byteAt (f ++ g) k = byteAt g (k - f.length) := by
  rw [byteAt, byteAt, List.getD_append_right _ _ _ _ h]

theorem byteAt_take (f : List Byte) (n k : Nat) (h : k < n) : byteAt (f.take n) k = byteAt f k := by
  simp [byteAt, List.getD_eq_getElem?_getD, h]

theorem byteAt_drop (f : List Byte) (n k : Nat) : byteAt (f.drop n) k = byteAt f (n + k) := by
  simp [byteAt, List.getD_eq_getElem?_getD, List.getElem?_drop]

@[simp] theorem leBytes_length (n v : Nat) : (leBytes n v).length = n := by
  induction n generalizing v with
  | zero => rfl
  | succ n ih => simp [leBytes, ih]

/-- The bytes of a number give it back, as far as they reach. -/
@[simp] theorem leNat_leBytes (n v : Nat) : leNat (leBytes n v) = v % 256 ^ n := by
  induction n generalizing v with
  | zero => simp [leBytes, leNat, Nat.mod_one]
  | succ n ih =>
    rw [leBytes, leNat, ih, BitVec.toNat_ofNat, pow_succ' 256 n, Nat.mod_mul]

theorem leNat_lt (bs : List Byte) : leNat bs < 256 ^ bs.length := by
  induction bs with
  | nil => simp [leNat]
  | cons b bs ih =>
    have := b.isLt
    rw [leNat, List.length_cons, pow_succ']
    omega

/-- A list of bytes is the list of bytes of its number. -/
@[simp] theorem leBytes_leNat (bs : List Byte) : leBytes bs.length (leNat bs) = bs := by
  induction bs with
  | nil => rfl
  | cons b bs ih =>
    have := b.isLt
    rw [List.length_cons, leBytes, leNat]
    congr 1
    · apply BitVec.eq_of_toNat_eq
      rw [BitVec.toNat_ofNat]
      omega
    · rw [show (b.toNat + 256 * leNat bs) / 256 = leNat bs by omega, ih]

end Sys2Proof.Machine
end

