-- ==== Sys2Proof/Laws/Codec.lean ====
section
/-! SUPPORT. The operand codec: what each reader of an operand does on the bytes of an operand, and that it accepts no other
bytes; and the lengths of a built frame. -/

namespace Sys2Proof

open Machine

/-- A bind that ends well had a first part that ended well. -/
theorem except_bind_ok {α β ε : Type} (x : Except ε α) (f : α → Except ε β) (b : β) (h : (x >>= f) = .ok b) :
    ∃ a, x = .ok a ∧ f a = .ok b := by
  cases x with
  | error e => cases h
  | ok a => exact ⟨a, rfl, h⟩

@[simp] theorem except_ok_bind {α β ε : Type} (a : α) (f : α → Except ε β) : ((Except.ok a : Except ε α) >>= f) = f a := rfl

/-! ### Reading the bytes of an operand -/

theorem takeNat_leBytes (n v : Nat) (rest : List Byte) : takeNat n (leBytes n v ++ rest) = .ok (v % 256 ^ n, rest) := by
  unfold takeNat
  rw [if_neg (by simp)]
  simp

theorem takeBits_putBits (n w : Nat) (v : BitVec w) (rest : List Byte) (h : w = 8 * n) :
    takeBits n w (putBits n v ++ rest) = .ok (v, rest) := by
  unfold takeBits putBits
  rw [takeNat_leBytes]
  show Except.ok _ = _
  congr 2
  subst h
  have := v.isLt
  apply BitVec.eq_of_toNat_eq
  rw [BitVec.toNat_ofNat, show 256 ^ n = 2 ^ (8 * n) by rw [show 256 = 2 ^ 8 by rfl, ← pow_mul]]
  simp

theorem takeOptional_putOptional (v : Option (BitVec 64)) (rest : List Byte) :
    takeOptional (putOptional v ++ rest) = .ok (v, rest) := by
  cases v with
  | none =>
    unfold takeOptional putOptional
    rw [List.append_assoc, takeNat_leBytes]
    show (do let (v, bs) ← takeNat 8 (leBytes 8 0 ++ rest); _) = _
    rw [takeNat_leBytes]; rfl
  | some v =>
    unfold takeOptional putOptional putBits
    simp only [List.append_assoc, takeNat_leBytes, except_ok_bind]
    have := v.isLt
    have e : BitVec.ofNat 64 (v.toNat % 256 ^ 8) = v := by
      apply BitVec.eq_of_toNat_eq; rw [BitVec.toNat_ofNat]; omega
    rw [e]; rfl

theorem takeBuffer_putBuffer (b : Ref) (n : Len) (rest : List Byte) :
    takeBuffer (putBuffer b n ++ rest) = .ok ((b, n), rest) := by
  unfold takeBuffer putBuffer
  rw [List.append_assoc, takeOptional_putOptional]
  show (do let (n', bs) ← takeBits 4 32 (putBits 4 n ++ rest); _) = _
  rw [takeBits_putBits 4 32 n rest rfl]; rfl

/-! ### The only bytes a reader accepts -/

theorem takeNat_ok (n : Nat) (bs : List Byte) (v : Nat) (rest : List Byte) (h : takeNat n bs = .ok (v, rest)) :
    bs = leBytes n v ++ rest ∧ v < 256 ^ n ∧ bs.length = n + rest.length := by
  unfold takeNat at h
  split at h
  · cases h
  · rename_i hl
    cases h
    have h1 : (bs.take n).length = n := by simp; omega
    have h2 := leBytes_leNat (bs.take n)
    rw [h1] at h2
    have h3 := leNat_lt (bs.take n)
    rw [h1] at h3
    exact ⟨by rw [h2, List.take_append_drop], h3, by simp; omega⟩

theorem takeBits_ok (n w : Nat) (bs : List Byte) (v : BitVec w) (rest : List Byte) (hw : w = 8 * n)
    (h : takeBits n w bs = .ok (v, rest)) :
    bs = putBits n v ++ rest ∧ bs.length = n + rest.length := by
  unfold takeBits at h
  cases hk : takeNat n bs with
  | error e => rw [hk] at h; cases h
  | ok x =>
    rw [hk] at h; cases h
    obtain ⟨a, b, c⟩ := takeNat_ok n bs x.1 x.2 hk
    refine ⟨?_, c⟩
    rw [putBits, BitVec.toNat_ofNat, Nat.mod_eq_of_lt]
    · exact a
    · subst hw; rwa [show 256 = 2 ^ 8 by rfl, ← pow_mul] at b

theorem takeOptional_ok (bs : List Byte) (v : Option (BitVec 64)) (rest : List Byte) (h : takeOptional bs = .ok
    (v, rest)) :
    bs = putOptional v ++ rest ∧ bs.length = 9 + rest.length := by
  unfold takeOptional at h
  cases hk : takeNat 1 bs with
  | error e => rw [hk] at h; cases h
  | ok x =>
    rw [hk] at h
    obtain ⟨x, y⟩ := x
    obtain ⟨a, b, c⟩ := takeNat_ok 1 bs x y hk
    change (do let (v, bs) ← takeNat 8 y; _) = _ at h
    cases hk2 : takeNat 8 y with
    | error e => rw [hk2] at h; cases h
    | ok x2 =>
      rw [hk2] at h
      obtain ⟨x2, y2⟩ := x2
      obtain ⟨a2, b2, c2⟩ := takeNat_ok 8 y x2 y2 hk2
      change (if x = 1 then _ else _) = _ at h
      split at h
      · next h1 =>
        cases h; subst h1
        refine ⟨?_, by simp only at *; omega⟩
        rw [putOptional, putBits, BitVec.toNat_ofNat, Nat.mod_eq_of_lt (by omega), List.append_assoc, ← a2, ← a]
      · split at h
        · next h1 =>
          cases h; obtain ⟨rfl, rfl⟩ := h1
          refine ⟨?_, by simp only at *; omega⟩
          rw [putOptional, List.append_assoc, ← a2, ← a]
        · cases h

theorem takeBuffer_ok (bs : List Byte) (b : Ref) (n : Len) (rest : List Byte) (h : takeBuffer bs = .ok
    ((b, n), rest)) :
    bs = putBuffer b n ++ rest ∧ bs.length = 13 + rest.length := by
  unfold takeBuffer at h
  obtain ⟨⟨x, y⟩, h1, h2⟩ := except_bind_ok _ _ _ h
  obtain ⟨⟨x2, y2⟩, h3, h4⟩ := except_bind_ok _ _ _ h2
  cases h4
  obtain ⟨a, b⟩ := takeOptional_ok _ _ _ h1
  obtain ⟨c, d⟩ := takeBits_ok 4 32 _ _ _ rfl h3
  exact ⟨by rw [putBuffer, List.append_assoc, ← c, a], by omega⟩

/-! ### A built frame -/

theorem Machine.frameBody_length (rom : Rom) (q : BuildFields) (pay : List Byte) :
    (frameBody rom q pay).length = 11 + pay.length := by
  simp [frameBody, headerBytes]; omega

theorem Machine.checkedOf_buildFrame (rom : Rom) (q : BuildFields) (pay : List Byte) :
    checkedOf (buildFrame rom q pay) = frameBody rom q pay := by
  have h : (buildFrame rom q pay).length - trlLen = (frameBody rom q pay).length := by
    rw [buildFrame, List.length_append, trlLen]
    exact Nat.add_sub_cancel _ _
  rw [checkedOf, h, buildFrame, List.take_left]

end Sys2Proof
end

