-- ==== Sys2Proof/Laws/Commands.lean ====
section
/-! SUPPORT. One lemma for each test a command or the scanner makes, in arithmetic, and one for each answer of the scanner's
step selection. -/

namespace Sys2Proof.Machine

theorem frameLength_eq (n : Nat) : frameLength n = 13 + n := by
  simp only [frameLength, hdrLen, trlLen]; omega

/-- R145, R146, R181: a NULL buffer with a length above 0. -/
theorem nullWithLength_iff (buf : Ref) (n : Len) : nullWithLength buf n = true ↔ buf = none ∧ 0 < n.toNat := by
  simp only [nullWithLength, Bool.and_eq_true, decide_eq_true_eq, Option.isNone_iff_eq_none]

/-- 42_builder R181. -/
theorem buildInvalid_iff (out : Ref) (cap : Len) (pay : Ref) (n : Len) :
    buildInvalid out cap pay n = true ↔
      (out = none ∨ (pay = none ∧ 0 < n.toNat) ∨ 1400 < 13 + n.toNat ∨ cap.toNat < 13 + n.toNat) := by
  simp only [buildInvalid, Bool.or_eq_true, nullWithLength_iff, decide_eq_true_eq, Option.isNone_iff_eq_none,
    frameLength_eq, maxFrame, or_assoc]

/-- 20_memory R80. -/
theorem overlaps_iff (o a : Addr) (cap n : Len) :
    overlaps (some o) cap (some a) n = true ↔
      0 < cap.toNat ∧ 0 < n.toNat ∧ o.toNat < a.toNat + n.toNat ∧ a.toNat < o.toNat + cap.toNat := by
  simp only [overlaps, Bool.and_eq_true, decide_eq_true_eq, and_assoc]

/-- 43_parser R225, R226. -/
theorem lengthOk_iff (l : Nat) : lengthOk l = true ↔ 13 ≤ l ∧ l ≤ 1400 := by
  rw [lengthOk, Bool.and_eq_true, decide_eq_true_eq, decide_eq_true_eq]
  exact Iff.rfl

/-- 43_parser R224: HOK. -/
theorem headerOk_iff (rom : Rom) (p : Slot) :
    headerOk rom p = true ↔ ck8 rom [p.ringAt 0, p.ringAt 1, p.ringAt 2] = p.ringAt 3 := by
  rw [headerOk, beq_iff_eq, hckOf, Slot.header, Slot.byteAt_copy _ _ _ (by omega)]
  rfl

/-- LEN of the first four bytes of the stream (43_parser R225). -/
theorem lenOf_header (p : Slot) :
    lenOf p.header = ((p.ringAt 1).toNat + 256 * (p.ringAt 2).toNat) % 1024 := by
  rw [lenOf, lenVerOf, BitVec.toNat_and, u16le_toNat, Slot.header, Slot.byteAt_copy _ _ _ (by omega),
    Slot.byteAt_copy _ _ _ (by omega)]
  exact Nat.and_two_pow_sub_one_eq_mod _ 10

/-- 30_encoding R99: LEN is a 10-bit field. -/
theorem lenOf_lt (f : List Byte) : lenOf f < 1024 := by
  rw [lenOf, BitVec.toNat_and]
  exact Nat.lt_of_le_of_lt Nat.and_le_right (by decide)

/-- Every step that does not await, with its conditions: all that a scanner step can do (43_parser R222 to R228). -/
theorem Slot.scanStep_some (rom : Rom) (p q : Slot) (l : Option Label) (h : p.scanStep rom = some (q, l)) :
    (p.scan = .seekingStart ∧ 1 ≤ p.count.toNat ∧ p.ringAt 0 ≠ sof ∧ q = p.discard 1 ∧ l = some (.dropped .notSof)) ∨
    (p.scan = .seekingStart ∧ 4 ≤ p.count.toNat ∧ p.ringAt 0 = sof ∧ headerOk rom p = false ∧
      q = p.discard 1 ∧ l = some (.dropped .hdrCk)) ∨
    (p.scan = .seekingStart ∧ 4 ≤ p.count.toNat ∧ p.ringAt 0 = sof ∧ headerOk rom p = true ∧
      lenOf p.header < 13 ∧ q = p.discard 1 ∧ l = some (.dropped .lenRange)) ∨
    (p.scan = .seekingStart ∧ 4 ≤ p.count.toNat ∧ p.ringAt 0 = sof ∧ headerOk rom p = true ∧
      13 ≤ lenOf p.header ∧ q = p.latch (lenOf p.header) ∧ l = none) ∨
    (p.scan = .accumulatingFrame ∧ p.expLen.toNat ≤ p.count.toNat ∧
      q = (p.discard p.expLen.toNat).seek ∧ l = some (classify rom (p.copy p.expLen.toNat))) := by
  unfold Slot.scanStep Slot.select at h
  have hlt := lenOf_lt p.header
  cases hs : p.scan with
  | seekingStart =>
    simp only [hs] at h
    split at h
    · cases h
    split at h
    · next h1 h2 => cases h; exact .inl ⟨rfl, by omega, h2, rfl, rfl⟩
    split at h
    · cases h
    split at h
    · next h1 h2 h3 h4 => cases h; exact .inr (.inl ⟨rfl, by omega, by simpa using h2, by simpa using h4, rfl, rfl⟩)
    split at h
    · next h1 h2 h3 h4 h5 =>
      cases h
      have : ¬ (13 ≤ lenOf p.header ∧ lenOf p.header ≤ 1400) := by rw [← lengthOk_iff]; simpa using h5
      exact .inr (.inr (.inl ⟨rfl, by omega, by simpa using h2, by simpa using h4, by omega, rfl, rfl⟩))
    · next h1 h2 h3 h4 h5 =>
      cases h
      have : 13 ≤ lenOf p.header ∧ lenOf p.header ≤ 1400 := by rw [← lengthOk_iff]; simpa using h5
      exact .inr (.inr (.inr (.inl ⟨rfl, by omega, by simpa using h2, by simpa using h4, by omega, rfl, rfl⟩)))
  | accumulatingFrame =>
    simp only [hs] at h
    split at h
    · cases h
    · next h1 => cases h; exact .inr (.inr (.inr (.inr ⟨rfl, by omega, rfl, rfl⟩)))

/-- The states in which the scanner awaits (43_parser R221, R223, R227). -/
theorem Slot.scanStep_none (rom : Rom) (p : Slot) :
    p.scanStep rom = none ↔
      (p.scan = .seekingStart ∧ (p.count.toNat = 0 ∨ (p.ringAt 0 = sof ∧ p.count.toNat < 4))) ∨
      (p.scan = .accumulatingFrame ∧ p.count.toNat < p.expLen.toNat) := by
  unfold Slot.scanStep Slot.select
  cases hs : p.scan with
  | seekingStart =>
    by_cases h0 : p.count.toNat = 0
    · simp [h0, Slot.perform]
    · by_cases h1 : p.ringAt 0 = sof
      · by_cases h2 : p.count.toNat < 4
        · simp [h0, h1, h2, Slot.perform]
        · by_cases h3 : headerOk rom p = true <;> by_cases h4 : lengthOk (lenOf p.header) = true <;>
            simp [h0, h1, h2, h3, h4, Slot.perform]
      · simp [h0, h1, Slot.perform]
  | accumulatingFrame =>
    by_cases h0 : p.count.toNat < p.expLen.toNat <;> simp [h0, Slot.perform]

end Sys2Proof.Machine
end

