-- ==== Sys2Proof/Laws/Exec.lean ====
section
/-! SUPPORT. All that a command can do to the state, said once: every claim about what commands write is a case analysis
over this list. -/

namespace Sys2Proof.Machine

/-- Every next state of `exec`, with the instruction it comes from where it writes a slot. -/
theorem exec_cases (i : Instr) (s t : State) (h : exec i s = .next t) :
    (∃ r, t = s.recordFault r) ∨
    (∃ r, t = s.respond r) ∨
    (∃ out f r, t = (s.writeFrame out f).respond r) ∨
    (∃ out cap r, t = (s.scribble out cap).respond r) ∨
    (∃ n p ls, t = s.deliver n p ls) ∨
    (∃ cb ctx n, i = .create cb ctx ∧ cb ≠ none ∧ s.chooseSlot = some n ∧
      t = ((s.updateSlot n (fun p => p.create cb ctx)).drawn 1).respond (.status .ok (.handle n))) ∨
    (∃ n buf k p, i = .feed n buf k ∧ n ≠ 0 ∧ s.slot? n = some p ∧ p.live = true ∧
      t = s.feedSlot n p (s.readBuffer buf k.toNat)) ∨
    (∃ n p, i = .reset n ∧ n ≠ 0 ∧ s.slot? n = some p ∧ p.live = true ∧ t = (s.updateSlot n Slot.clear).respond .done) ∨
    (∃ n p, i = .destroy n ∧ n ≠ 0 ∧ s.slot? n = some p ∧ p.live = true ∧
      t = (s.updateSlot n Slot.release).respond .done) := by
  have retire : ∀ (n : Nat) (l : Label), s.retire n l = t →
      (∃ r, t = s.recordFault r) ∨ (∃ n p ls, t = s.deliver n p ls) := by
    intro n l ht
    unfold State.retire at ht
    split at ht
    · exact .inl ⟨_, ht.symm⟩
    · exact .inr ⟨_, _, _, ht.symm⟩
  cases i with
  | ck8 buf n =>
    simp only [exec, execCk8] at h
    split at h <;> cases h <;> exact .inr (.inl ⟨_, rfl⟩)
  | ck16 buf n =>
    simp only [exec, execCk16] at h
    split at h <;> cases h <;> exact .inr (.inl ⟨_, rfl⟩)
  | decode buf n =>
    simp only [exec, execDecode] at h
    split at h <;> cases h <;> exact .inr (.inl ⟨_, rfl⟩)
  | build out cap st si rt ri seq pt ack enc cls mid pay n =>
    simp only [exec, execBuild] at h
    split at h
    · cases h; exact .inl ⟨_, rfl⟩
    split at h <;> cases h
    · exact .inr (.inr (.inr (.inl ⟨_, _, _, rfl⟩)))
    · exact .inr (.inr (.inl ⟨_, _, _, rfl⟩))
  | create cb ctx =>
    simp only [exec, execCreate] at h
    split at h
    · cases h; exact .inr (.inl ⟨_, rfl⟩)
    split at h
    · cases h; exact .inr (.inl ⟨_, rfl⟩)
    · next hcb _ n hn =>
      cases h
      exact .inr (.inr (.inr (.inr (.inr (.inl ⟨cb, ctx, n, rfl, hcb, hn, rfl⟩)))))
  | feed n buf k =>
    simp only [exec, execFeed] at h
    split at h
    · cases h; exact .inr (.inl ⟨_, rfl⟩)
    split at h
    · cases h; exact .inl ⟨_, rfl⟩
    · next hn _ p hp =>
      cases h
      rw [State.liveSlot?_eq_some] at hp
      exact .inr (.inr (.inr (.inr (.inr (.inr (.inl
        ⟨n, buf, k, p, rfl, fun e => hn (.inl e), hp.1, hp.2, rfl⟩))))))
  | reset n =>
    simp only [exec, execReset] at h
    split at h
    · cases h; exact .inr (.inl ⟨_, rfl⟩)
    split at h
    · cases h; exact .inl ⟨_, rfl⟩
    · next hn _ p hp =>
      cases h
      rw [State.liveSlot?_eq_some] at hp
      exact .inr (.inr (.inr (.inr (.inr (.inr (.inr (.inl ⟨n, p, rfl, hn, hp.1, hp.2, rfl⟩)))))))
  | destroy n =>
    simp only [exec, execDestroy] at h
    split at h
    · cases h; exact .inr (.inl ⟨_, rfl⟩)
    split at h
    · cases h; exact .inl ⟨_, rfl⟩
    · next hn _ p hp =>
      cases h
      by_cases hl : p.live = true
      · rw [if_pos hl]
        exact .inr (.inr (.inr (.inr (.inr (.inr (.inr (.inr ⟨n, p, rfl, hn, hp, hl, rfl⟩)))))))
      · rw [if_neg hl]
        exact .inr (.inl ⟨_, rfl⟩)
  | rcPush n f => exact (retire n _ (Host.Outcome.next.inj h)).elim .inl fun e => .inr (.inr (.inr (.inr (.inl e))))
  | enable n f => exact (retire n _ (Host.Outcome.next.inj h)).elim .inl fun e => .inr (.inr (.inr (.inr (.inl e))))
  | channelRequest n f =>
    exact (retire n _ (Host.Outcome.next.inj h)).elim .inl fun e => .inr (.inr (.inr (.inr (.inl e))))
  | other n f => exact (retire n _ (Host.Outcome.next.inj h)).elim .inl fun e => .inr (.inr (.inr (.inr (.inl e))))

/-- Every next state of `step`: nothing to do, a fault of the command's bytes or issue pattern, or a command run. -/
theorem step_cases (s t : State) (h : step s = .next t) :
    (s.queue = [] ∧ t = s) ∨
    (∃ c rest, s.faults = [] ∧ s.queue = c :: rest ∧
      ((∃ r, t = State.recordFault { s with queue := rest } r) ∨
        ∃ i, decode .command c.bytes = .ok i ∧ exec i { s with queue := rest } = .next t)) := by
  unfold step at h
  split at h
  · next hf =>
    split at h
    · next hq => cases h; exact .inl ⟨hq, rfl⟩
    · next c rest hq =>
      refine .inr ⟨c, rest, hf, hq, ?_⟩
      unfold State.runCommand at h
      split at h
      · cases h; exact .inl ⟨_, rfl⟩
      · next i hd =>
        split at h
        · cases h; exact .inl ⟨_, rfl⟩
        · exact .inr ⟨i, hd, h⟩
  · cases h

end Sys2Proof.Machine
end

