-- ==== Sys2Proof/Laws/PerInstr.lean ====
section
/-! SUPPORT. A statement about every instruction as syntax, by cases on its constructor: how many bytes its words have. -/

namespace Sys2Proof.Laws.EncodedLength

open Sys2Proof Sys2Proof.Machine

/-- The number of bytes of each instruction's words: CODE and operands for a command (30_encoding R109, log 2), the frame
itself for a dispatch row, which has 13 to 1400 bytes (R90). -/
def Statement : Instr → Prop
  | .ck8 buf n => (encode (.ck8 buf n)).length = 1 + Opcode.ck8.operandLength
  | .ck16 buf n => (encode (.ck16 buf n)).length = 1 + Opcode.ck16.operandLength
  | .decode buf n => (encode (.decode buf n)).length = 1 + Opcode.decode.operandLength
  | .build out cap st si rt ri seq pt ack enc cls mid pay n =>
    (encode (.build out cap st si rt ri seq pt ack enc cls mid pay n)).length = 1 + Opcode.build.operandLength
  | .create cb ctx => (encode (.create cb ctx)).length = 1 + Opcode.create.operandLength
  | .feed h buf n => (encode (.feed h buf n)).length = 1 + Opcode.feed.operandLength
  | .reset h => (encode (.reset h)).length = 1 + Opcode.reset.operandLength
  | .destroy h => (encode (.destroy h)).length = 1 + Opcode.destroy.operandLength
  | .rcPush h f => WellFormed (.rcPush h f) = true → 13 ≤ (encode (.rcPush h f)).length ∧ (encode (.rcPush h f)).length ≤ 1400
  | .enable h f => WellFormed (.enable h f) = true → 13 ≤ (encode (.enable h f)).length ∧ (encode (.enable h f)).length ≤ 1400
  | .channelRequest h f =>
    WellFormed (.channelRequest h f) = true →
      13 ≤ (encode (.channelRequest h f)).length ∧ (encode (.channelRequest h f)).length ≤ 1400
  | .other h f => WellFormed (.other h f) = true → 13 ≤ (encode (.other h f)).length ∧ (encode (.other h f)).length ≤ 1400

theorem putOptional_length (v : Option (BitVec 64)) : (putOptional v).length = 9 := by
  cases v <;> simp [putOptional, putBits]

theorem putBuffer_length (b : Ref) (n : Len) : (putBuffer b n).length = 13 := by
  simp [putBuffer, putOptional_length, putBits]

theorem frameFits_iff (f : List Byte) : frameFits f = true ↔ 13 ≤ f.length ∧ f.length ≤ 1400 := by
  simp [frameFits]

theorem ck8 (buf : Ref) (n : Len) : Statement (.ck8 buf n) := by
  simp [Statement, encode, putBuffer_length, Opcode.operandLength]

theorem ck16 (buf : Ref) (n : Len) : Statement (.ck16 buf n) := by
  simp [Statement, encode, putBuffer_length, Opcode.operandLength]

theorem decode (buf : Ref) (n : Len) : Statement (.decode buf n) := by
  simp [Statement, encode, putBuffer_length, Opcode.operandLength]

theorem build (out : Ref) (cap : Len) (st si rt ri : Byte) (seq : Half) (pt ack enc cls mid : Byte) (pay : Ref) (n : Len) :
    Statement (.build out cap st si rt ri seq pt ack enc cls mid pay n) := by
  simp [Statement, encode, putBuffer_length, putBits, Opcode.operandLength]

theorem create (cb ctx : Option Token) : Statement (.create cb ctx) := by
  simp [Statement, encode, putOptional_length, Opcode.operandLength]

theorem feed (h : Nat) (buf : Ref) (n : Len) : Statement (.feed h buf n) := by
  simp [Statement, encode, putBuffer_length, Opcode.operandLength]

theorem reset (h : Nat) : Statement (.reset h) := by
  simp [Statement, encode, Opcode.operandLength]

theorem destroy (h : Nat) : Statement (.destroy h) := by
  simp [Statement, encode, Opcode.operandLength]

theorem rcPush (h : Nat) (f : List Byte) : Statement (.rcPush h f) := by
  intro hw
  simp only [WellFormed, Bool.and_eq_true, frameFits_iff] at hw
  exact hw.1

theorem enable (h : Nat) (f : List Byte) : Statement (.enable h f) := by
  intro hw
  simp only [WellFormed, Bool.and_eq_true, frameFits_iff] at hw
  exact hw.1

theorem channelRequest (h : Nat) (f : List Byte) : Statement (.channelRequest h f) := by
  intro hw
  simp only [WellFormed, Bool.and_eq_true, frameFits_iff] at hw
  exact hw.1

theorem other (h : Nat) (f : List Byte) : Statement (.other h f) := by
  intro hw
  simp only [WellFormed, Bool.and_eq_true, frameFits_iff] at hw
  exact hw.1

end Sys2Proof.Laws.EncodedLength
end

