-- ==== Sys2Proof/Laws/Scan.lean ====
section
/-! SUPPORT. The scanner: a measure that every step lowers, the scan as a recursion on its steps, what a step never writes,
and that a step taken on the bytes buffered so far is the step taken when more bytes follow. -/

namespace Sys2Proof.Machine

/-- A measure of the work left: two for each buffered byte, one less once a header is latched (43_parser R251). -/
def Slot.scanMeasure (p : Slot) : Nat := 2 * p.count.toNat - (if p.scan = .accumulatingFrame then 1 else 0)

theorem Slot.scanMeasure_le (p : Slot) : p.scanMeasure ≤ 2 * p.count.toNat := by
  simp only [Slot.scanMeasure]; omega

/-- A step keeps the register bounds and lowers the measure. -/
theorem Slot.scanStep_bounds (rom : Rom) (p q : Slot) (l : Option Label) (hb : p.BoundsOk)
    (h : p.scanStep rom = some (q, l)) : q.BoundsOk ∧ q.scanMeasure < p.scanMeasure := by
  obtain ⟨h1, h2⟩ := hb
  rcases Slot.scanStep_some rom p q l h with ⟨hs, hc, -, rfl, -⟩ | ⟨hs, hc, -, -, rfl, -⟩ | ⟨hs, hc, -, -, -, rfl, -⟩ |
    ⟨hs, hc, -, -, hl, rfl, -⟩ | ⟨hs, hc, rfl, -⟩
  · have := Slot.discard_count_toNat p 1 hc
    refine ⟨⟨by omega, fun h => by simp [hs] at h⟩, ?_⟩
    simp only [Slot.scanMeasure, this, Slot.discard_scan, hs]; simp; omega
  · have := Slot.discard_count_toNat p 1 (by omega)
    refine ⟨⟨by omega, fun h => by simp [hs] at h⟩, ?_⟩
    simp only [Slot.scanMeasure, this, Slot.discard_scan, hs]; simp; omega
  · have := Slot.discard_count_toNat p 1 (by omega)
    refine ⟨⟨by omega, fun h => by simp [hs] at h⟩, ?_⟩
    simp only [Slot.scanMeasure, this, Slot.discard_scan, hs]; simp; omega
  · have hlt := lenOf_lt p.header
    refine ⟨⟨h1, fun _ => ?_⟩, ?_⟩
    · show 13 ≤ (BitVec.ofNat 11 (lenOf p.header)).toNat ∧ _ ≤ 1023
      rw [BitVec.toNat_ofNat]
      show _ ∧ (BitVec.ofNat 11 (lenOf p.header)).toNat ≤ _
      rw [BitVec.toNat_ofNat]; omega
    · show 2 * p.count.toNat - 1 < 2 * p.count.toNat - _
      rw [hs]; simp; omega
  · have := Slot.discard_count_toNat p _ hc
    have h3 := h2 hs
    refine ⟨⟨?_, fun h => by simp [Slot.seek] at h⟩, ?_⟩
    · show (p.discard p.expLen.toNat).count.toNat ≤ _
      omega
    · show 2 * (p.discard p.expLen.toNat).count.toNat - 0 < 2 * p.count.toNat - _
      rw [hs]; simp only [if_true]; omega

/-- A step writes neither LIVE, CB, CTX, RING nor HEAD. -/
theorem Slot.scanStep_keeps (rom : Rom) (p q : Slot) (l : Option Label) (h : p.scanStep rom = some (q, l)) :
    q.live = p.live ∧ q.cb = p.cb ∧ q.ctx = p.ctx ∧ q.ring = p.ring ∧ q.head = p.head := by
  rcases Slot.scanStep_some rom p q l h with ⟨-, -, -, rfl, -⟩ | ⟨-, -, -, -, rfl, -⟩ | ⟨-, -, -, -, -, rfl, -⟩ |
    ⟨-, -, -, -, -, rfl, -⟩ | ⟨-, -, rfl, -⟩ <;> exact ⟨rfl, rfl, rfl, rfl, rfl⟩

/-- A step never raises COUNT. -/
theorem Slot.scanStep_count_le (rom : Rom) (p q : Slot) (l : Option Label) (h : p.scanStep rom = some (q, l)) :
    q.count.toNat ≤ p.count.toNat := by
  rcases Slot.scanStep_some rom p q l h with ⟨-, hc, -, rfl, -⟩ | ⟨-, hc, -, -, rfl, -⟩ | ⟨-, hc, -, -, -, rfl, -⟩ |
    ⟨-, hc, -, -, -, rfl, -⟩ | ⟨-, hc, rfl, -⟩
  · rw [Slot.discard_count_toNat p _ (by omega)]; omega
  · rw [Slot.discard_count_toNat p _ (by omega)]; omega
  · rw [Slot.discard_count_toNat p _ (by omega)]; omega
  · exact Nat.le_refl _
  · show (p.discard _).count.toNat ≤ _
    rw [Slot.discard_count_toNat p _ (by omega)]; omega

/-- A property that every step keeps is kept by any number of steps. -/
theorem Slot.scanFor_induction (rom : Rom) (P : Slot → Prop)
    (hP : ∀ p q l, P p → Slot.scanStep rom p = some (q, l) → P q) (k : Nat) (p : Slot) (h : P p) :
    P (Slot.scanFor rom k p).1 := by
  induction k generalizing p with
  | zero => exact h
  | succ k ih =>
    rw [Slot.scanFor]
    cases hs : p.scanStep rom with
    | none => exact h
    | some r => exact ih r.1 (hP p r.1 r.2 h hs)

/-- A slot whose measure is 0 awaits. -/
theorem Slot.scanStep_of_measure_zero (rom : Rom) (p : Slot) (hb : p.BoundsOk) (h : p.scanMeasure = 0) :
    p.scanStep rom = none := by
  cases hs : p.scanStep rom with
  | none => rfl
  | some r => have := (Slot.scanStep_bounds rom p r.1 r.2 hb hs).2; omega

/-- Bounds on the number of steps that reach the measure give one result. -/
theorem Slot.scanFor_congr (rom : Rom) (k k' : Nat) (p : Slot) (hb : p.BoundsOk) (hk : p.scanMeasure ≤ k)
    (hk' : p.scanMeasure ≤ k') : Slot.scanFor rom k p = Slot.scanFor rom k' p := by
  induction k generalizing k' p with
  | zero =>
    have := Slot.scanStep_of_measure_zero rom p hb (by omega)
    cases k' with
    | zero => rfl
    | succ k' => rw [Slot.scanFor, Slot.scanFor, this]
  | succ k ih =>
    cases h : p.scanStep rom with
    | none =>
      cases k' with
      | zero => rw [Slot.scanFor, Slot.scanFor, h]
      | succ k' => rw [Slot.scanFor, Slot.scanFor, h]
    | some r =>
      have := Slot.scanStep_bounds rom p r.1 r.2 hb h
      cases k' with
      | zero => omega
      | succ k' =>
        rw [Slot.scanFor, Slot.scanFor, h]
        simp only
        rw [ih k' r.1 this.1 (by omega) (by omega)]

/-- A scan that awaits at once changes nothing. -/
theorem Slot.runScan_of_none (rom : Rom) (p : Slot) (h : p.scanStep rom = none) : p.runScan rom = (p, []) := by
  rw [Slot.runScan, Slot.scanBound, Slot.scanFor, h]

/-- A scan whose first step does not await is that step, then a scan (43_parser R220). -/
theorem Slot.runScan_of_some (rom : Rom) (p q : Slot) (l : Option Label) (hb : p.BoundsOk)
    (h : p.scanStep rom = some (q, l)) :
    p.runScan rom = ((q.runScan rom).1, l.toList ++ (q.runScan rom).2) := by
  have hq := Slot.scanStep_bounds rom p q l hb h
  have hp := p.scanMeasure_le
  have hr := q.scanMeasure_le
  rw [Slot.runScan, Slot.scanBound, Slot.scanFor, h]
  simp only
  rw [Slot.runScan, Slot.scanFor_congr rom _ q.scanBound q hq.1 (by omega) (by simp only [Slot.scanBound]; omega)]

/-! ### Bytes that follow -/

/-- With room, a discard and a push commute. -/
theorem Slot.push_discard (p : Slot) (b : Byte) (n : Nat) (hn : n ≤ p.count.toNat) (hc : p.count.toNat < 4096) :
    (p.push b).discard n = (p.discard n).push b := by
  have h1 := Slot.discard_count_toNat p n hn
  have : ((p.push b).discard n).count = ((p.discard n).push b).count := by
    apply BitVec.eq_of_toNat_eq
    rw [Slot.discard_count_toNat _ _ (by rw [Slot.push_count_of_lt _ _ hc]; omega), Slot.push_count_of_lt _ _ hc,
      Slot.push_count_of_lt _ _ (by omega)]
    omega
  simp only [Slot.discard, Slot.push] at this ⊢
  congr 1

/-- With room, a push leaves a copy of buffered bytes alone. -/
theorem Slot.copy_push (p : Slot) (b : Byte) (n : Nat) (hn : n ≤ p.count.toNat) (hc : p.count.toNat < 4096) :
    (p.push b).copy n = p.copy n := by
  apply List.map_congr_left
  intro i hi
  exact Slot.ringAt_push_old p b i hc (by have := List.mem_range.mp hi; omega)

theorem headerOk_congr (rom : Rom) (p q : Slot) (h : p.header = q.header) : headerOk rom p = headerOk rom q := by
  rw [headerOk, headerOk, h]

/-- With room, a step that does not await is the same step after a push (43_parser R253). -/
theorem Slot.scanStep_push (rom : Rom) (p q : Slot) (l : Option Label) (b : Byte) (hc : p.count.toNat < 4096)
    (h : p.scanStep rom = some (q, l)) : (p.push b).scanStep rom = some (q.push b, l) := by
  have hc' := Slot.push_count_of_lt p b hc
  unfold Slot.scanStep Slot.select at h ⊢
  rw [Slot.push_scan]
  cases hs : p.scan with
  | seekingStart =>
    simp only [hs] at h ⊢
    split at h
    · cases h
    rename_i h0
    have hr : (p.push b).ringAt 0 = p.ringAt 0 := Slot.ringAt_push_old p b 0 hc (by omega)
    rw [if_neg (by omega), hr]
    split at h
    · next hn =>
      rw [if_pos hn]; cases h
      rw [Slot.perform, Slot.push_discard _ _ _ (by omega) hc]
    rename_i hn
    rw [if_neg hn]
    split at h
    · cases h
    rename_i h4
    have hh : (p.push b).header = p.header := Slot.copy_push p b 4 (by omega) hc
    rw [if_neg (by omega), headerOk_congr rom _ p hh, hh]
    split at h
    · next hn =>
      rw [if_pos hn]; cases h
      rw [Slot.perform, Slot.push_discard _ _ _ (by omega) hc]
    rename_i hn
    rw [if_neg hn]
    split at h
    · next hn =>
      rw [if_pos hn]; cases h
      rw [Slot.perform, Slot.push_discard _ _ _ (by omega) hc]
    rename_i hn
    rw [if_neg hn]
    cases h
    rw [Slot.perform, hh]; rfl
  | accumulatingFrame =>
    simp only [hs] at h ⊢
    rw [Slot.push_expLen]
    split at h
    · cases h
    · rw [if_neg (by omega)]
      cases h
      rw [Slot.perform, Slot.push_expLen, Slot.push_discard _ _ _ (by omega) hc, Slot.copy_push _ _ _ (by omega) hc]
      rfl

end Sys2Proof.Machine
end

