-- ==== Sys2Proof/Tests/Slice0.lean ====
section
/-! SUPPORT. The author's own tests: the well-formedness checks on ill-formed terms, the decoding of words written out from
30_encoding, the ROMs against 70_reset R314, small vectors of 95_test_vectors, and for every statement with hypotheses a
state and operands that meet them. -/

namespace Sys2Proof.Tests

open Sys2Proof Sys2Proof.Machine

/-! ### Helpers -/

/-- PC, the payload of scenario 2 (95_test_vectors). -/
def payC : List Byte :=
  [0x00#8, 0x00#8, 0x00#8, 0x00#8, 0x00#8, 0x00#8, 0x04#8, 0x00#8, 0x04#8, 0x00#8, 0x04#8, 0x00#8, 0x04#8, 0x00#8, 0x04#8,
   0x00#8, 0x04#8]

/-- PA, the payload of scenario 3. -/
def payA : List Byte := [0x70#8, 0xF9#8, 0x1D#8] ++ payC.drop 3

/-- F4, the frame of scenario 4. -/
def frame4 : List Byte :=
  [0x55#8, 0x1E#8, 0x04#8, 0x8A#8, 0x06#8, 0x02#8, 0x01#8, 0x00#8, 0x00#8, 0x06#8, 0x05#8] ++ payC ++ [0xF0#8, 0xE0#8]

/-- F6, a push frame with 10 payload bytes. -/
def frame6 : List Byte :=
  [0x55#8, 0x17#8, 0x04#8, 0x38#8, 0x06#8, 0x02#8, 0x01#8, 0x00#8, 0x00#8, 0x06#8, 0x05#8] ++ List.replicate 10 0x00#8 ++
    [0xB6#8, 0x35#8]

/-- FEN, the enable frame. -/
def frameEnable : List Byte :=
  [0x55#8, 0x0E#8, 0x04#8, 0x66#8, 0x02#8, 0x06#8, 0x01#8, 0x00#8, 0x00#8, 0x06#8, 0x24#8, 0x01#8, 0x0E#8, 0x85#8]

/-- FCR, the channel request frame. -/
def frameRequest : List Byte :=
  [0x55#8, 0x0D#8, 0x04#8, 0x33#8, 0x02#8, 0x06#8, 0x01#8, 0x00#8, 0x00#8, 0x06#8, 0x01#8, 0xBE#8, 0xA5#8]

/-- The operands of F4. -/
def fields4 : BuildFields := ⟨0x06#8, 0x00#8, 0x02#8, 0x00#8, 0x0001#16, 0x00#8, 0x00#8, 0x00#8, 0x06#8, 0x05#8⟩

/-- A fresh LIVE slot. -/
def slotA : Slot := Slot.create Slot.free (some 7#64) (some 0x11#64)

/-- A fresh slot with bytes pushed and not scanned. -/
def slotWith (bs : List Byte) : Slot := slotA.pushAll bs

/-- A slot accumulating a frame of `e` bytes. -/
def slotAcc (e : BitVec 11) (bs : List Byte) : Slot := { slotWith bs with scan := .accumulatingFrame, expLen := e }

/-- A slot whose ring is full. -/
def slotFull : Slot := { slotA with count := 4096#13 }

/-- One LIVE slot, handle 1, and a FREE one, handle 2. -/
def stA : State := { State.reset with slots := [slotA, Slot.free] }

/-- The same with bytes in host memory at 0x100. -/
def stMem (bs : List Byte) : State := stA.store 0x100 bs

/-- The same with a command issued. -/
def stCmd (p : Issue) (bs : List Byte) : State := { stA with queue := [⟨p, bs⟩] }

/-- The next state of an outcome. -/
def next? : Host.Outcome State Fault Refusal → Option State
  | .next s => some s
  | .fault _ => none
  | .refused _ => none

/-! ### Well-formedness: an ill-formed term for each check -/

theorem test_wf_handle_too_wide : WellFormed (.reset (2 ^ 32)) = false ∧ WellFormed (.reset (2 ^ 32 - 1)) = true := by decide

theorem test_wf_feed_destroy_handle : WellFormed (.feed (2 ^ 32) none 0#32) = false ∧ WellFormed (.destroy (2 ^ 32)) = false := by
  decide

theorem test_wf_frame_too_short : WellFormed (.channelRequest 1 (frameRequest.take 12)) = false := by decide

theorem test_wf_frame_too_long : WellFormed (.rcPush 1 (frame4 ++ List.replicate 1371 0#8)) = false := by decide +kernel

theorem test_wf_frame_wrong_key : WellFormed (.enable 1 frame4) = false ∧ WellFormed (.channelRequest 1 frame4) = false ∧
    WellFormed (.rcPush 1 frameEnable) = false ∧ WellFormed (.other 1 frame4) = false := by decide

theorem test_wf_frame_right_key : WellFormed (.enable 1 frameEnable) = true ∧ WellFormed (.rcPush 1 frame4) = true := by decide

/-! ### Decoding of words written out from 30_encoding R109 and R112 -/

/-- CODE 0x01; a buffer at 0x0102; n = 3. -/
theorem test_decode_ck8 :
    decode .command [0b00000001#8, 0b00000001#8, 0b00000010#8, 0b00000001#8, 0#8, 0#8, 0#8, 0#8, 0#8, 0#8,
      0b00000011#8, 0#8, 0#8, 0#8] = .ok (.ck8 (some 0x0102#64) 3#32) := by decide

/-- CODE 0x02; NULL; n = 0x01000000. -/
theorem test_decode_ck16 :
    decode .command [0b00000010#8, 0b00000000#8, 0#8, 0#8, 0#8, 0#8, 0#8, 0#8, 0#8, 0#8, 0#8, 0#8, 0#8, 0b00000001#8] =
      .ok (.ck16 none 0x01000000#32) := by decide

/-- CODE 0x10; a buffer at address 0; n = 17. -/
theorem test_decode_decode :
    decode .command [0b00010000#8, 0b00000001#8, 0#8, 0#8, 0#8, 0#8, 0#8, 0#8, 0#8, 0#8, 0b00010001#8, 0#8, 0#8, 0#8] =
      .ok (.decode (some 0#64) 17#32) := by decide

/-- CODE 0x20; out at 0x10, cap 64; the fields in the order of R109; pay at 0x20, n = 1. -/
theorem test_decode_build :
    decode .command ([0b00100000#8, 1#8, 0x10#8, 0#8, 0#8, 0#8, 0#8, 0#8, 0#8, 0#8, 0x40#8, 0#8, 0#8, 0#8] ++
      [0x0A#8, 0x01#8, 0x06#8, 0x02#8, 0x34#8, 0x12#8, 0x01#8, 0x03#8, 0x07#8, 0x06#8, 0x24#8] ++
      [1#8, 0x20#8, 0#8, 0#8, 0#8, 0#8, 0#8, 0#8, 0#8, 1#8, 0#8, 0#8, 0#8]) =
      .ok (.build (some 0x10#64) 64#32 0x0A#8 0x01#8 0x06#8 0x02#8 0x1234#16 0x01#8 0x03#8 0x07#8 0x06#8 0x24#8
        (some 0x20#64) 1#32) := by decide

/-- CODE 0x30; cb = 7, ctx = NULL. -/
theorem test_decode_create :
    decode .command [0b00110000#8, 1#8, 7#8, 0#8, 0#8, 0#8, 0#8, 0#8, 0#8, 0#8, 0#8, 0#8, 0#8, 0#8, 0#8, 0#8, 0#8, 0#8, 0#8] =
      .ok (.create (some 7#64) none) := by decide

/-- CODE 0x31; h = 2; a buffer at 0x100; n = 30. -/
theorem test_decode_feed :
    decode .command [0b00110001#8, 2#8, 0#8, 0#8, 0#8, 1#8, 0#8, 1#8, 0#8, 0#8, 0#8, 0#8, 0#8, 0#8, 0b00011110#8, 0#8, 0#8, 0#8] =
      .ok (.feed 2 (some 0x100#64) 30#32) := by decide

/-- CODE 0x32 and CODE 0x33. -/
theorem test_decode_reset_destroy :
    decode .command [0b00110010#8, 1#8, 0#8, 0#8, 0#8] = .ok (.reset 1) ∧
    decode .command [0b00110011#8, 0#8, 0#8, 0#8, 1#8] = .ok (.destroy 0x01000000) := by decide

/-- R110: code 0x03, between two assigned ones, and code 0xFF. -/
theorem test_decode_unassigned :
    decode .command [0b00000011#8] = .error .unassignedCode ∧ decode .command [0xFF#8] = .error .unassignedCode := by decide

/-- R282: an operand byte missing, one too many, a bad presence byte, no code. -/
theorem test_decode_bad_operands :
    decode .command [0x32#8, 1#8, 0#8, 0#8] = .error .missingOperand ∧
    decode .command [0x32#8, 1#8, 0#8, 0#8, 0#8, 0#8] = .error .extraOperand ∧
    decode .command ([0x01#8, 2#8] ++ List.replicate 12 0#8) = .error .badPresence ∧
    decode .command [] = .error .noCode := by decide

/-- R112: the rows of the message dispatch. -/
theorem test_decode_frames :
    decode (.frame 1) frame4 = .ok (.rcPush 1 frame4) ∧ decode (.frame 1) frameEnable = .ok (.enable 1 frameEnable) ∧
    decode (.frame 2) frameRequest = .ok (.channelRequest 2 frameRequest) ∧
    decode (.frame 1) (List.replicate 13 0#8) = .ok (.other 1 (List.replicate 13 0#8)) ∧
    decode (.frame 1) (List.replicate 12 0#8) = .error .frameLength := by decide

/-- Rows of the opcode table through the host's numbering. -/
theorem test_table_words :
    decodeTableWord 8 0x33 = some (.destroy 0) ∧ decodeTableWord 8 0x34 = none ∧
    (decodeTableWord 16 0x0624).map portOf = some (.frame 1) := by decide +kernel

/-! ### ROMs (40_checksum R143, R144; 70_reset R314) -/

theorem test_rom8_is_generated : table8List = (List.range 256).map (fun i => crcEntry 0x8C#8 i) := by
  decide +kernel

theorem test_rom16_is_generated : table16List = (List.range 256).map (fun i => crcEntry 0x8408#16 i) := by
  decide +kernel

theorem test_rom_check_values :
    ck8 romDefault (List.range' 0x31 9 |>.map (BitVec.ofNat 8)) = 0xFB#8 ∧
    ck16 romDefault (List.range' 0x31 9 |>.map (BitVec.ofNat 8)) = 0x7109#16 := by decide +kernel

theorem test_rom_self_test :
    ck16 romDefault table8List = 0x38F5#16 ∧
    ck16 romDefault (table16List.flatMap (fun h => [loByte h, hiByte h])) = 0xBFB1#16 := by decide +kernel

/-! ### One step of each command -/

/-- 40_checksum R145: `CK8 [55 0D 04]` gives 0x33. -/
theorem test_ck8 : (next? (exec (.ck8 (some 0x100#64) 3#32) (stMem [0x55#8, 0x0D#8, 0x04#8]))).map (·.responses) =
    some [.status .ok (.byte 0x33#8)] := by decide +kernel

/-- 40_checksum R146: the trailer of F4. -/
theorem test_ck16 : (next? (exec (.ck16 (some 0x100#64) 28#32) (stMem (frame4.take 28)))).map (·.responses) =
    some [.status .ok (.word 0xE0F0#16)] := by decide +kernel

/-- Scenario 3: every button, Normal, centred sticks; and the wraps of 41_decoder section 3. -/
theorem test_decode_scenario3 :
    decodePayload payA = ⟨true, true, true, true, true, true, true, true, true, true, true, true, .normal,
      0#16, 0#16, 0#16, 0#16, 0#16, 0#16, 0#8⟩ := by decide

theorem test_decode_wraps :
    (analogAt [0x00#8, 0x00#8] 0).toInt = -1024 ∧ (analogAt [0xFF#8, 0xFF#8] 0).toInt = -1025 ∧
    (analogAt [0x00#8, 0x84#8] 0).toInt = -32768 ∧ (analogAt [0xFF#8, 0x83#8] 0).toInt = 32767 := by decide

/-- 42_builder R180: the frame of scenario 4. -/
theorem test_build : buildFrame romDefault fields4 payC = frame4 := by decide +kernel

/-- 42_builder R189: masked operands. -/
theorem test_build_masks :
    routingByte 0x3F#8 0x09#8 = 0x3F#8 ∧ packByte 3#8 1#8 0x0F#8 = 0xA7#8 ∧ lenVer 30 = 0x041E#16 ∧ lenVer 1024 = 0x0400#16 := by
  decide

/-- 43_parser R210 on the one FREE slot: handle 2. -/
theorem test_create :
    (next? (exec (.create (some 9#64) none) stA)).map (fun t => (t.responses, t.slots.map (·.live))) =
      some ([.status .ok (.handle 2)], [true, true]) := by
  have h : stA.freeHandles = [2] := by decide
  simp [exec, execCreate, State.chooseSlot, h, Nat.mod_one, next?]
  decide

theorem test_create_null_callback :
    (next? (exec (.create none (some 1#64)) stA)).map (·.responses) = some [.status .invalidArgument (.handle 0)] := by decide

/-- 43_parser R212: F4 on a fresh slot gives one event and (SEEK, 30, 0, 30). -/
theorem test_feed :
    (next? (exec (.feed 1 (some 0x100#64) 30#32) (stMem frame4))).map
      (fun t => (t.responses, t.events, t.slots.map (fun p => (p.scan, p.head)))) =
    some ([.delivered 1#32], [⟨1, some 7#64, some 0x11#64, decodePayload payC⟩],
      [(.seekingStart, 30#12), (.seekingStart, 0#12)]) := by decide +kernel

/-- 43_parser R224: a header whose checksum fails costs one byte each, the length range likewise. -/
theorem test_feed_drops :
    (slotA.feed romDefault .bulk [0x55#8, 0x0D#8, 0x04#8, 0x00#8]).2 =
      [.dropped .hdrCk, .dropped .notSof, .dropped .notSof, .dropped .notSof] ∧
    (slotA.feed romDefault .bulk [0x55#8, 0x0C#8, 0x04#8, 0xF7#8]).2 =
      [.dropped .lenRange, .dropped .notSof, .dropped .notSof, .dropped .notSof] := by decide +kernel

/-- 43_parser R218: RESET in the middle of a frame. -/
theorem test_reset :
    (next? (exec (.reset 1) { stA with slots := [slotAcc 30#11 (frame4.take 6)] })).map
      (fun t => t.slots.map (fun p => (p.cb, p.scan, p.expLen, p.count))) =
    some [(some 7#64, .seekingStart, 0#11, 0#13)] := by decide

/-- 43_parser R219: DESTROY, and DESTROY of a FREE slot and of a handle out of range. -/
theorem test_destroy :
    (next? (exec (.destroy 1) stA)).map (fun t => (t.slots.map (·.live), t.faults)) = some ([false, false], []) ∧
    (next? (exec (.destroy 2) stA)).map (·.faults) = some [] ∧
    (next? (exec (.destroy 3) stA)).map (·.faults) = some [.invalidHandle] := by decide

/-- 43_parser R231, R232: the RC-push row on F4 and on F6. -/
theorem test_rcPush :
    (next? (exec (.rcPush 1 frame4) stA)).map (·.events) = some [⟨1, some 7#64, some 0x11#64, decodePayload payC⟩] ∧
    (next? (exec (.rcPush 1 frame6) stA)).map (·.drops) = some [(1, .shortPush)] := by decide

/-- 43_parser R230: the other rows. -/
theorem test_notPush :
    (next? (exec (.enable 1 frameEnable) stA)).map (fun t => (t.events, t.drops)) = some ([], [(1, .notPush)]) ∧
    (next? (exec (.channelRequest 1 frameRequest) stA)).map (·.drops) = some [(1, .notPush)] ∧
    (next? (exec (.other 1 (List.replicate 13 0#8)) stA)).map (·.drops) = some [(1, .notPush)] := by decide

/-- 20_memory R66: at COUNT = 4096 the byte goes where the oldest was, and COUNT stays. -/
theorem test_ring_full :
    (slotFull.push 0xAA#8).count = 4096#13 ∧ (slotFull.push 0xAA#8).start = 1#12 ∧
    (slotFull.push 0xAA#8).ringAt 4095 = 0xAA#8 := by decide +kernel

/-- The host's placement of a command is fetched and run. -/
theorem test_withFetchWord :
    (next? (step (State.reset.withFetchWord 8 0x33))).map (·.responses) = some [.done] ∧
    (next? (step (State.reset.withFetchWord 8 0x34))).map (·.faults) = some [.illegalCommand] := by decide

/-- The host's placement of a frame row: a FEED of a frame with that key is fetched, and the scanner runs the row. -/
theorem test_withFetchWord_frames :
    (next? (step (State.reset.withFetchWord 16 0x0605))).map (·.events.length) = some 1 ∧
    (next? (step (State.reset.withFetchWord 16 0x0624))).map (·.drops) = some [(1, .notPush)] := by decide +kernel

/-! ### Witnesses: a state and operands that meet the hypotheses of each statement -/

theorem witness_StepRunsDecodedCommand :
    let s := stCmd .serial (encode (.reset 1))
    s.faults = [] ∧ s.queue = [⟨.serial, encode (.reset 1)⟩] ∧ decode .command (encode (.reset 1)) = .ok (.reset 1) ∧
    issueFault .serial (.reset 1) = none := by decide

/-- The rank of log 31: a nested command with an operand byte missing, or with an unassigned code, records
ILLEGAL_COMMAND; a nested RESET of NULL, else a no-op, records REENTRANT_COMMAND. -/
theorem test_issue_rank :
    (next? (step (stCmd .nested [0x32#8, 1#8, 0#8, 0#8]))).map (·.faults) = some [.illegalCommand] ∧
    (next? (step (stCmd .nested [0x34#8]))).map (·.faults) = some [.illegalCommand] ∧
    (next? (step (stCmd .nested [0x32#8, 0#8, 0#8, 0#8, 0#8]))).map (·.faults) = some [.reentrantCommand] := by decide

theorem witness_FaultedStateHasNoStep :
    ({ stA with faults := [.invalidHandle] } : State).faults ≠ [] ∧ stA.faults = [] ∧ stA.queue = [] := by decide

theorem witness_IllegalCommandsAreRecorded :
    let s := stCmd .serial [0x34#8]
    s.faults = [] ∧ s.queue = [⟨.serial, [0x34#8]⟩] ∧
    0x34#8 ∉ [0x01#8, 0x02#8, 0x10#8, 0x20#8, 0x30#8, 0x31#8, 0x32#8, 0x33#8] := by decide

theorem witness_IllegalCommandsAreRecorded_operands :
    let s := stCmd .serial [0x33#8, 1#8, 0#8, 0#8]
    s.faults = [] ∧ s.queue = [⟨.serial, 0x33#8 :: [1#8, 0#8, 0#8]⟩] ∧ 0x33#8 = Opcode.destroy.code ∧
    [1#8, 0#8, 0#8].length ≠ Opcode.destroy.operandLength := by decide

theorem witness_IssuePatternFaultsAreRecorded :
    let b := encode (.reset 1)
    (stCmd .nested b).faults = [] ∧ (stCmd .nested b).queue = [⟨.nested, b⟩] ∧ decode .command b = .ok (.reset 1) ∧
    (stCmd (.concurrent 1) b).queue = [⟨.concurrent 1, b⟩] ∧ targetOf (.reset 1) = some 1 := by decide

theorem witness_ChecksumCommandsAnswer : (0#32).toNat = 0 ∧ 0 < (1#32).toNat := by decide

theorem witness_DecodeAnswers :
    (some 0#64 : Ref) = some 0#64 ∧ 17 ≤ (17#32).toNat ∧ (16#32).toNat < 17 ∧ (none : Ref) = none := by decide

theorem witness_ReservedPayloadBitsHaveNoEffect :
    let p := payA
    let q := [0xFF#8, 0xFF#8, 0xFD#8, 0xFF#8, 0x81#8] ++ payA.drop 5 ++ [0x01#8]
    byteAt p 0 &&& 0x70#8 = byteAt q 0 &&& 0x70#8 ∧ byteAt p 1 &&& 0xF9#8 = byteAt q 1 &&& 0xF9#8 ∧
    byteAt p 2 &&& 0x1F#8 = byteAt q 2 &&& 0x1F#8 ∧ byteAt p 4 &&& 0x7E#8 = byteAt q 4 &&& 0x7E#8 ∧
    (∀ k, k < 17 → 5 ≤ k → byteAt p k = byteAt q k) ∧ p ≠ q := by decide

theorem witness_BuildWritesTheFrame :
    13 + (1387#32).toNat ≤ 1400 ∧ 13 + (1387#32).toNat ≤ (1400#32).toNat ∧
    (0x100#64).toNat + (1387#32).toNat ≤ (0x66B#64).toNat ∧ (0x66B#64).toNat + (1400#32).toNat ≤ (0xBE3#64).toNat ∧
    13 + (0#32).toNat ≤ (13#32).toNat ∧ (0#32).toNat = 0 := by decide

theorem witness_BuildStoresOnlyTheFrame :
    Memory.wf (stMem payC).mem = true ∧ overlaps (some 0x200#64) 30#32 (some 0x100#64) 17#32 = false ∧
    buildInvalid (some 0x200#64) 30#32 (some 0x100#64) 17#32 = false ∧
    (∃ t, exec (.build (some 0x200#64) 30#32 fields4.st fields4.si fields4.rt fields4.ri fields4.seq fields4.pt fields4.ack
      fields4.enc fields4.cls fields4.mid (some 0x100#64) 17#32) (stMem payC) = .next t) := by
  refine ⟨by decide, by decide, by decide, _, rfl⟩

theorem witness_BuildRejectsExactlyInvalidArguments :
    overlaps none 0#32 none 3#32 = false ∧ overlaps (some 0x200#64) 29#32 (some 0x100#64) 17#32 = false := by decide

theorem witness_FailedBuildTouchesOnlyItsOutput :
    overlaps (some 0x200#64) 29#32 (some 0x100#64) 17#32 = false ∧
    buildInvalid (some 0x200#64) 29#32 (some 0x100#64) 17#32 = true ∧
    overlaps none 64#32 (some 0x100#64) 17#32 = false ∧ buildInvalid none 64#32 (some 0x100#64) 17#32 = true := by decide

theorem witness_OverlappingBuildRecordsFault :
    stA.faults = [] ∧ 0 < (30#32).toNat ∧ 0 < (17#32).toNat ∧ (0x110#64).toNat < (0x100#64).toNat + (17#32).toNat ∧
    (0x100#64).toNat < (0x110#64).toNat + (30#32).toNat := by decide

theorem witness_LongFramesCarryATruncatedLength :
    let pay := List.replicate 1011 0x00#8
    let p := slotWith [0x55#8, 0x00#8, 0x04#8, 0xBA#8]
    1024 ≤ 13 + pay.length ∧ 13 + pay.length ≤ 1036 ∧ p.scan = .seekingStart ∧ 4 ≤ p.count.toNat ∧
    p.header = (buildFrame romDefault fields4 pay).take 4 := by decide +kernel

theorem witness_LongFramesCarryATruncatedLength_top : 13 + (List.replicate 1387 0x00#8).length ≤ 1400 := by decide +kernel

theorem witness_BuiltFrameRoundTrips :
    Memory.wf (stMem payC).mem = true ∧ overlaps (some 0x200#64) 30#32 (some 0x100#64) 17#32 = false ∧
    buildInvalid (some 0x200#64) 30#32 (some 0x100#64) 17#32 = false ∧ 13 + (17#32).toNat ≤ 1023 ∧
    (stMem payC).slot? 1 = some slotA ∧ slotA.live = true ∧ slotA.scan = .seekingStart ∧ slotA.count = 0#13 ∧
    Memory.wf slotA.ring = true := by decide

theorem witness_CreateSetsUpAFreeSlot : ∃ p ∈ stA.slots, p.live = false := ⟨Slot.free, by decide, rfl⟩

theorem witness_CreateFailures : ∀ p ∈ ({ stA with slots := [slotA] } : State).slots, p.live = true := by decide

theorem witness_NullFeedReturnsZero : (0 = 0 ∨ (some 0#64 : Ref) = none) ∧ (1 = 0 ∨ (none : Ref) = none) := by decide

theorem witness_DanglingHandleRecordsFault :
    stA.faults = [] ∧ (3 : Nat) ≠ 0 ∧ stA.slots.length < 3 ∧ stA.slot? 2 = some Slot.free ∧ Slot.free.live = false := by decide

theorem witness_FeedPushesAndScans :
    stA.slot? 1 = some slotA ∧ slotA.live = true ∧ stA.feedMode = .bulk ∧
    ({ stA with feedMode := .perByte } : State).feedMode = .perByte := by decide

theorem witness_DeliveredCountsTheEvents :
    stA.slot? 1 = some slotA ∧ slotA.live = true ∧ stA.feedMode = .bulk ∧ slotA.count.toNat ≤ 4096 ∧
    ({ stA with feedMode := .perByte } : State).feedMode = .perByte ∧ slotA.BoundsOk ∧ slotA.Quiescent := by decide

theorem witness_ResetReturnsToSeeking : stA.slot? 1 = some slotA ∧ slotA.live = true := by decide

theorem witness_DestroyFreesTheSlot :
    stA.slot? 1 = some slotA ∧ slotA.live = true ∧ stA.slot? 2 = some Slot.free ∧ Slot.free.live = false ∧
    stA.faults = [] ∧ stA.slots.length < 3 := by decide

theorem witness_RingPushAppendsOrOverwrites :
    Memory.wf slotFull.ring = true ∧ slotFull.count.toNat ≤ 4096 ∧ ¬ slotFull.count.toNat < 4096 ∧
    Memory.wf slotA.ring = true ∧ slotA.count.toNat < 4096 := by decide

theorem witness_RingDiscardAndCopy : 6 ≤ (slotWith (frame4.take 6)).count.toNat := by decide

theorem witness_BulkPushKeepsTheLastBytes : Memory.wf slotFull.ring = true ∧ slotFull.count.toNat ≤ 4096 := by decide

/-- One slot for each row of the selection table but A_TAKE. -/
theorem witness_StepSelectionTable :
    (slotA.scan = .seekingStart ∧ slotA.count.toNat = 0) ∧
    (let p := slotWith [0xAA#8]; p.scan = .seekingStart ∧ 1 ≤ p.count.toNat ∧ p.ringAt 0 ≠ 0x55#8) ∧
    (let p := slotWith [0x55#8, 0x0D#8, 0x04#8]; 1 ≤ p.count.toNat ∧ p.count.toNat ≤ 3 ∧ p.ringAt 0 = 0x55#8) ∧
    (let p := slotWith [0x55#8, 0x0D#8, 0x04#8, 0x00#8]
     4 ≤ p.count.toNat ∧ p.ringAt 0 = 0x55#8 ∧ ¬ ck8 romDefault [p.ringAt 0, p.ringAt 1, p.ringAt 2] = p.ringAt 3) := by
  decide +kernel

theorem witness_StepSelectionTable_lengths :
    (let p := slotWith [0x55#8, 0x0C#8, 0x04#8, 0xF7#8]
     4 ≤ p.count.toNat ∧ p.ringAt 0 = 0x55#8 ∧ ck8 romDefault [p.ringAt 0, p.ringAt 1, p.ringAt 2] = p.ringAt 3 ∧
     ((p.ringAt 1).toNat + 256 * (p.ringAt 2).toNat) % 1024 = 12) ∧
    (let p := slotWith [0x55#8, 0x0D#8, 0x04#8, 0x33#8]
     4 ≤ p.count.toNat ∧ p.ringAt 0 = 0x55#8 ∧ ck8 romDefault [p.ringAt 0, p.ringAt 1, p.ringAt 2] = p.ringAt 3 ∧
     ((p.ringAt 1).toNat + 256 * (p.ringAt 2).toNat) % 1024 = 13) ∧
    (let p := slotAcc 30#11 (frame4.take 29)
     p.scan = .accumulatingFrame ∧ p.count.toNat < p.expLen.toNat) := by
  decide +kernel

theorem witness_TakeConsumesTheCandidate :
    (slotAcc 30#11 frame4).scan = .accumulatingFrame ∧
    (slotAcc 30#11 frame4).expLen.toNat ≤ (slotAcc 30#11 frame4).count.toNat := by decide +kernel

/-- A frame for each clause: a bad trailer, another class, a short push, a push of exactly 30 bytes. -/
theorem witness_ClassificationOfCandidates :
    (13 ≤ frameRequest.length ∧ frameOk romDefault (frameRequest.set 12 0x00#8) = false) ∧
    (frameOk romDefault frameRequest = true ∧ byteAt frameRequest 10 ≠ 0x05#8) ∧
    (frameOk romDefault frame6 = true ∧ byteAt frame6 9 = 0x06#8 ∧ byteAt frame6 10 = 0x05#8 ∧ frame6.length < 30) ∧
    (frameOk romDefault frame4 = true ∧ byteAt frame4 9 = 0x06#8 ∧ byteAt frame4 10 = 0x05#8 ∧ frame4.length = 30) := by
  decide +kernel

theorem witness_UnreadFrameFieldsHaveNoEffect :
    let g := buildFrame romDefault { fields4 with seq := 0x0002#16, enc := 7#8 } payC
    frame4.length = g.length ∧ 13 ≤ frame4.length ∧ frameOk romDefault frame4 = true ∧ frameOk romDefault g = true ∧
    (∀ k, k < 28 → 9 ≤ k → byteAt frame4 k = byteAt g k) ∧ frame4 ≠ g := by decide +kernel

theorem witness_ScanEndsQuiescent : (slotAcc 30#11 frame4).BoundsOk ∧ slotFull.BoundsOk := by decide +kernel

theorem witness_ScanTerminates : (slotAcc 13#11 frame4).BoundsOk ∧ (slotAcc 1023#11 frame4).BoundsOk := by decide +kernel

theorem witness_BulkAndPerByteAgree :
    (slotAcc 30#11 (frame4.take 6)).BoundsOk ∧ (slotAcc 30#11 (frame4.take 6)).Quiescent ∧
    (slotAcc 30#11 (frame4.take 6)).count.toNat + (frame4.drop 6).length ≤ 4096 := by decide

theorem witness_ChunkingInvariance :
    slotA.BoundsOk ∧ slotA.Quiescent ∧ slotA.NoOverwrite .bulk (frame4.length + frame4.length) ∧
    slotA.NoOverwrite .perByte 5000 := by
  refine ⟨by decide, by decide, by decide, .inl rfl⟩

theorem witness_LeadingGarbageIsInvisible :
    Memory.wf slotA.ring = true ∧ slotA.scan = .seekingStart ∧ slotA.count = 0#13 ∧
    (∀ b ∈ [0x01#8, 0xAA#8], b ≠ 0x55#8) ∧ slotA.NoOverwrite .bulk (2 + frame4.length) := by decide

theorem witness_OverflowRecovery :
    slotA.RingOk ∧ slotA.RegistersOk ∧ 1022 ≤ (List.replicate 1022 0xAA#8).length ∧
    ∀ b ∈ List.replicate 1022 0xAA#8, b ≠ 0x55#8 := by
  refine ⟨⟨rfl, fun c hc => absurd hc (List.not_mem_nil)⟩, by decide, by rw [List.length_replicate], ?_⟩
  intro b hb
  rw [List.eq_of_mem_replicate hb]
  decide

theorem witness_ResetSlotBehavesAsFresh : Memory.wf (slotWith (frame4.take 6)).ring = true := by decide

theorem witness_LatchedHeaderStaysInPlace :
    let p := slotAcc 30#11 (frame4.take 6)
    p.BoundsOk ∧ p.Quiescent ∧ p.NoOverwrite .bulk 24 ∧
    (p.ringAt 0 = sof ∧ headerOk romDefault p = true ∧ lenOf p.header = p.expLen.toNat ∧ 4 ≤ p.count.toNat) := by
  decide +kernel

theorem witness_RcPushEmitsOrDrops :
    stA.slot? 1 = some slotA ∧ slotA.live = true ∧ 30 ≤ frame4.length ∧ (frame4.take 29).length < 30 := by decide

theorem witness_OtherRowsDropTheFrame : stA.slot? 1 = some slotA ∧ slotA.live = true := by decide

theorem witness_CandidateRunsItsTableRow :
    decode (.frame 1) frame4 = .ok (.rcPush 1 frame4) ∧ stA.slot? 1 = some slotA ∧ slotA.live = true ∧
    frameOk stA.rom frame4 = true ∧ stA.faults = [] ∧ stA.liveSlot? 2 = none ∧
    decode (.frame 2) frame4 = .ok (.rcPush 2 frame4) := by decide +kernel

theorem witness_StepKeepsTheConfiguration : ∃ t, step (stCmd .serial (encode (.reset 1))) = .next t := ⟨_, rfl⟩

theorem witness_HistoriesOnlyGrow : ∃ t, step (stCmd .nested (encode (.reset 1))) = .next t := ⟨_, rfl⟩

theorem witness_FaultingCommandChangesNothingElse :
    ∃ t, exec (.reset 2) stA = .next t ∧ t.faults ≠ stA.faults := ⟨_, rfl, by decide⟩

theorem witness_BindingsAreWrittenByCreateAlone :
    (∃ t, exec (.destroy 1) stA = .next t) ∧ stA.slot? 1 = some slotA ∧
    (∀ cb ctx, Instr.destroy 1 ≠ .create cb ctx) ∧ (∀ h', Instr.reset 1 ≠ .destroy h') := by
  refine ⟨⟨_, rfl⟩, by decide, ?_, ?_⟩
  · intro cb ctx h; cases h
  · intro h' h; cases h

theorem witness_InstancesAreIndependent :
    (∃ t, exec (.reset 1) stA = .next t) ∧ targetOf (.reset 1) ≠ some 2 ∧ (∀ cb ctx, Instr.reset 1 ≠ .create cb ctx) := by
  refine ⟨⟨_, rfl⟩, by decide, ?_⟩
  intro cb ctx h; cases h

theorem witness_DropLabelsAreUnobservable : ∃ t, step (stCmd .serial (encode (.destroy 1))) = .next t := ⟨_, rfl⟩

theorem witness_StepKeepsTheInvariant :
    (stCmd .serial (encode (.destroy 1))).Ok ∧ ∃ t, step (stCmd .serial (encode (.destroy 1))) = .next t := by
  refine ⟨by decide, _, rfl⟩

theorem witness_DecodeOfEncode : WellFormed (.feed (2 ^ 32 - 1) (some (BitVec.allOnes 64)) (BitVec.allOnes 32)) = true := by decide

theorem witness_EncodeOfDecode : decode .command [0x32#8, 1#8, 0#8, 0#8, 0#8] = .ok (.reset 1) := by decide

end Sys2Proof.Tests
end

section
/-! The command port's step: what `step` and `runCommand` answer, one equation per branch used. -/

namespace Sys2Proof.Machine

/-- 20_memory R63, 60_exceptions R281: a command is taken, oldest first, only with FAULTS empty. -/
theorem step_of_queue_cons {s : State} {c : HostCommand} {rest : List HostCommand} (hfaults : s.faults = [])
    (hqueue : s.queue = c :: rest) : step s = State.runCommand { s with queue := rest } c := by
  simp only [step, hfaults, hqueue, if_true]

/-- 60_exceptions R276: a command whose bytes decode, issued without a fault of its pattern, is executed. -/
theorem runCommand_of_decode_ok {c : HostCommand} {i : Instr} (s : State) (hdecode : decode .command c.bytes = .ok i)
    (hissue : issueFault c.issue i = none) : s.runCommand c = exec i s := by
  simp only [State.runCommand, hdecode, hissue]

/-- Settles O1: the step takes the oldest command, and running that command is `exec` of what it decodes to. -/
theorem stepRunsDecodedCommand : Obligations.StepRunsDecodedCommand := by
  intro s c rest i hfaults hqueue hdecode hissue
  calc step s = State.runCommand { s with queue := rest } c := step_of_queue_cons hfaults hqueue
    _ = exec i { s with queue := rest } := runCommand_of_decode_ok _ hdecode hissue

end Sys2Proof.Machine
end

section
/-! What one command does to the fields of the state, read off `exec_cases` once: the configuration, the histories, host
memory and the slots. -/

namespace Sys2Proof.Machine

/-! ### The fields after a FEED (43_parser R212 to R217) -/

@[simp] theorem State.feedSlot_rom (s : State) (h : Nat) (p : Slot) (bs : List Byte) :
    (s.feedSlot h p bs).rom = s.rom := by simp [State.feedSlot]
@[simp] theorem State.feedSlot_feedMode (s : State) (h : Nat) (p : Slot) (bs : List Byte) :
    (s.feedSlot h p bs).feedMode = s.feedMode := by simp [State.feedSlot]
@[simp] theorem State.feedSlot_slots (s : State) (h : Nat) (p : Slot) (bs : List Byte) :
    (s.feedSlot h p bs).slots = (s.updateSlot h (fun _ => (p.feed s.rom s.feedMode bs).1)).slots := rfl
@[simp] theorem State.feedSlot_slot? (s : State) (h : Nat) (p : Slot) (bs : List Byte) (k : Nat) :
    (s.feedSlot h p bs).slot? k = (s.updateSlot h (fun _ => (p.feed s.rom s.feedMode bs).1)).slot? k :=
  State.slot?_congr _ _ k (s.feedSlot_slots h p bs)
@[simp] theorem State.feedSlot_mem (s : State) (h : Nat) (p : Slot) (bs : List Byte) :
    (s.feedSlot h p bs).mem = s.mem := by simp [State.feedSlot]
@[simp] theorem State.feedSlot_responses (s : State) (h : Nat) (p : Slot) (bs : List Byte) :
    (s.feedSlot h p bs).responses = s.responses ++
      [.delivered (BitVec.ofNat 32 (snapshotsOf (p.feed s.rom s.feedMode bs).2).length)] := by simp [State.feedSlot]
@[simp] theorem State.feedSlot_events (s : State) (h : Nat) (p : Slot) (bs : List Byte) :
    (s.feedSlot h p bs).events = s.events ++ (snapshotsOf (p.feed s.rom s.feedMode bs).2).map (p.event h) := by
  simp [State.feedSlot]
@[simp] theorem State.feedSlot_faults (s : State) (h : Nat) (p : Slot) (bs : List Byte) :
    (s.feedSlot h p bs).faults = s.faults := by simp [State.feedSlot]

/-! ### Configuration (10_state R32, R39) -/

/-- The parts of the state that an implementation fixes (00_scope R3). -/
def State.SameConfiguration (s t : State) : Prop :=
  t.rom = s.rom ∧ t.feedMode = s.feedMode ∧ t.slots.length = s.slots.length

theorem exec_keeps_configuration {i : Instr} {s t : State} (h : exec i s = .next t) : s.SameConfiguration t := by
  rcases exec_cases i s t h with ⟨r, rfl⟩ | ⟨r, rfl⟩ | ⟨out, f, r, rfl⟩ | ⟨out, cap, r, rfl⟩ | ⟨n, p, ls, rfl⟩ |
    ⟨cb, ctx, n, -, -, -, rfl⟩ | ⟨n, buf, k, p, -, -, -, -, rfl⟩ | ⟨n, p, -, -, -, -, rfl⟩ | ⟨n, p, -, -, -, -, rfl⟩
  all_goals simp [State.SameConfiguration]

/-- Settles O49: a step takes a command off the queue, which is no part of the configuration, and then records a fault or
runs the command. -/
theorem stepKeepsTheConfiguration : Obligations.StepKeepsTheConfiguration := by
  intro s t h
  rcases step_cases s t h with ⟨-, rfl⟩ | ⟨c, rest, -, -, ⟨r, rfl⟩ | ⟨i, -, hexec⟩⟩
  · exact ⟨rfl, rfl, rfl⟩
  · exact ⟨rfl, rfl, rfl⟩
  · exact (exec_keeps_configuration hexec :)

/-! ### Histories (10_state R35, R36) -/

/-- The histories of `t` begin with those of `s`. -/
def State.HistoriesGrow (s t : State) : Prop :=
  s.events <+: t.events ∧ s.responses <+: t.responses ∧ s.faults <+: t.faults

theorem State.historiesGrow_recordFault (s : State) (r : FaultReason) : s.HistoriesGrow (s.recordFault r) := by
  refine ⟨List.prefix_rfl, List.prefix_rfl, ?_⟩
  rw [State.recordFault_faults]
  split
  · exact List.prefix_rfl
  · exact List.prefix_append _ _

theorem exec_grows_histories {i : Instr} {s t : State} (h : exec i s = .next t) : s.HistoriesGrow t := by
  rcases exec_cases i s t h with ⟨r, rfl⟩ | ⟨r, rfl⟩ | ⟨out, f, r, rfl⟩ | ⟨out, cap, r, rfl⟩ | ⟨n, p, ls, rfl⟩ |
    ⟨cb, ctx, n, -, -, -, rfl⟩ | ⟨n, buf, k, p, -, -, -, -, rfl⟩ | ⟨n, p, -, -, -, -, rfl⟩ | ⟨n, p, -, -, -, -, rfl⟩
  · exact State.historiesGrow_recordFault s r
  all_goals simp [State.HistoriesGrow]

/-- Settles O50: taking a command off the queue leaves the histories alone, and a recorded fault or a command that runs
appends to them. -/
theorem historiesOnlyGrow : Obligations.HistoriesOnlyGrow := by
  intro s t h
  have hgrow : s.HistoriesGrow t := by
    rcases step_cases s t h with ⟨-, rfl⟩ | ⟨c, rest, -, -, ⟨r, rfl⟩ | ⟨i, -, hexec⟩⟩
    · exact ⟨List.prefix_rfl, List.prefix_rfl, List.prefix_rfl⟩
    · exact State.historiesGrow_recordFault { s with queue := rest } r
    · exact (exec_grows_histories hexec :)
  obtain ⟨⟨es, hes⟩, ⟨rs, hrs⟩, ⟨fs, hfs⟩⟩ := hgrow
  exact ⟨⟨es, hes.symm⟩, ⟨rs, hrs.symm⟩, ⟨fs, hfs.symm⟩⟩

/-! ### Host memory (20_memory R70) -/

theorem State.wf_writeFrame {s : State} (out : Ref) (frame : List Byte) (hw : Memory.wf s.mem = true) :
    Memory.wf (s.writeFrame out frame).mem = true := by
  cases out with
  | none => exact hw
  | some o => exact Memory.wf_writeBytes frame s.mem o.toNat hw

theorem State.wf_scribble {s : State} (out : Ref) (cap : Len) (hw : Memory.wf s.mem = true) :
    Memory.wf (s.scribble out cap).mem = true := by
  cases out with
  | none => exact hw
  | some o => exact Memory.wf_writeBytes (s.freeBytes cap.toNat) s.mem o.toNat hw

/-- BUILD alone writes host memory, and a written list of bytes keeps the canonical form. -/
theorem exec_keeps_mem_wf {i : Instr} {s t : State} (h : exec i s = .next t) (hw : Memory.wf s.mem = true) :
    Memory.wf t.mem = true := by
  rcases exec_cases i s t h with ⟨r, rfl⟩ | ⟨r, rfl⟩ | ⟨out, f, r, rfl⟩ | ⟨out, cap, r, rfl⟩ | ⟨n, p, ls, rfl⟩ |
    ⟨cb, ctx, n, -, -, -, rfl⟩ | ⟨n, buf, k, p, -, -, -, -, rfl⟩ | ⟨n, p, -, -, -, -, rfl⟩ | ⟨n, p, -, -, -, -, rfl⟩
  · exact hw
  · exact hw
  · exact State.wf_writeFrame out f hw
  · exact State.wf_scribble out cap hw
  all_goals simpa using hw

/-! ### Slots (10_state R41) -/

/-- The writes of a slot: what a command in state `s` makes of slot `p` of handle `h` where it writes it. -/
inductive SlotWrite (s : State) : Instr → Nat → Slot → Slot → Prop where
  /-- 43_parser R210. -/
  | create {h : Nat} {p : Slot} {cb : Option Token} (ctx : Option Token) (free : p.live = false) (hcb : cb ≠ none) :
      SlotWrite s (.create cb ctx) h p (p.create cb ctx)
  /-- 43_parser R212. -/
  | feed {h : Nat} {p : Slot} (buf : Ref) (n : Len) (live : p.live = true) :
      SlotWrite s (.feed h buf n) h p (p.feed s.rom s.feedMode (s.readBuffer buf n.toNat)).1
  /-- 43_parser R218. -/
  | reset {h : Nat} {p : Slot} (live : p.live = true) : SlotWrite s (.reset h) h p p.clear
  /-- 43_parser R219. -/
  | destroy {h : Nat} {p : Slot} (live : p.live = true) : SlotWrite s (.destroy h) h p p.release

/-- After `updateSlot` a slot is as it was, or it is the one named and changed. -/
theorem State.slot?_updateSlot_cases {s : State} {n h : Nat} {g : Slot → Slot} {p q : Slot} (hp : s.slot? n = some p)
    (hq : (s.updateSlot n g).slot? h = some q) : s.slot? h = some q ∨ h = n ∧ q = g p := by
  by_cases hn : h = n
  · subst hn
    rw [State.slot?_updateSlot_self, hp] at hq
    exact .inr ⟨rfl, (Option.some.inj hq).symm⟩
  · rw [State.slot?_updateSlot_other s n h g hn] at hq
    exact .inl hq

/-- Every slot after a command is as it was before, or it is one that the command writes. -/
theorem exec_slot_cases {i : Instr} {s t : State} {h : Nat} {q : Slot} (hexec : exec i s = .next t)
    (hq : t.slot? h = some q) : s.slot? h = some q ∨ ∃ p, s.slot? h = some p ∧ SlotWrite s i h p q := by
  rcases exec_cases i s t hexec with ⟨r, rfl⟩ | ⟨r, rfl⟩ | ⟨out, f, r, rfl⟩ | ⟨out, cap, r, rfl⟩ | ⟨n, p, ls, rfl⟩ |
    ⟨cb, ctx, n, rfl, hcb, hchoose, rfl⟩ | ⟨n, buf, k, p, rfl, -, hp, hlive, rfl⟩ | ⟨n, p, rfl, -, hp, hlive, rfl⟩ |
    ⟨n, p, rfl, -, hp, hlive, rfl⟩
  all_goals simp only [State.recordFault_slot?, State.respond_slot?, State.writeFrame_slot?, State.scribble_slot?,
    State.deliver_slot?, State.drawn_slot?, State.feedSlot_slot?] at hq
  · exact .inl hq
  · exact .inl hq
  · exact .inl hq
  · exact .inl hq
  · exact .inl hq
  · obtain ⟨p, hp, hfree⟩ := State.chooseSlot_some s n hchoose
    exact (State.slot?_updateSlot_cases hp hq).imp_right fun ⟨hn, hg⟩ => by
      subst hn hg; exact ⟨p, hp, .create ctx hfree hcb⟩
  · exact (State.slot?_updateSlot_cases hp hq).imp_right fun ⟨hn, hg⟩ => by
      subst hn hg; exact ⟨p, hp, .feed buf k hlive⟩
  · exact (State.slot?_updateSlot_cases hp hq).imp_right fun ⟨hn, hg⟩ => by
      subst hn hg; exact ⟨p, hp, .reset hlive⟩
  · exact (State.slot?_updateSlot_cases hp hq).imp_right fun ⟨hn, hg⟩ => by
      subst hn hg; exact ⟨p, hp, .destroy hlive⟩

/-- A command leaves every slot there. -/
theorem exec_keeps_slot?_isSome {i : Instr} {s t : State} (h : Nat) (hexec : exec i s = .next t) :
    (t.slot? h).isSome = (s.slot? h).isSome := by
  obtain ⟨-, -, hlength⟩ := exec_keeps_configuration hexec
  rw [Bool.eq_iff_iff, State.slot?_isSome, State.slot?_isSome, State.nInstances, State.nInstances, hlength]

end Sys2Proof.Machine
end

section
/-! FEED as a sequence of pushes and scanner steps: what they keep, FEED keeps; and the state a scan ends in. -/

namespace Sys2Proof.Machine

/-! ### What every push and every scanner step keeps -/

theorem Slot.runScan_induction {rom : Rom} {P : Slot → Prop}
    (hstep : ∀ p q l, P p → Slot.scanStep rom p = some (q, l) → P q) {p : Slot} (h : P p) : P (p.runScan rom).1 :=
  Slot.scanFor_induction rom P hstep p.scanBound p h

/-- 43_parser R216: what each byte of a PER_BYTE FEED keeps, the FEED keeps. -/
theorem Slot.feedPerByte_induction {rom : Rom} {P : Slot → Prop}
    (hbyte : ∀ p b, P p → P ((Slot.push p b).runScan rom).1) (bs : List Byte) {p : Slot} (h : P p) :
    P (p.feedPerByte rom bs).1 := by
  induction bs generalizing p with
  | nil => exact h
  | cons b bs ih => exact ih (hbyte p b h)

/-- What every push and every scanner step keeps, a FEED keeps in both modes. -/
theorem Slot.feed_induction {rom : Rom} {P : Slot → Prop} (hpush : ∀ p b, P p → P (Slot.push p b))
    (hstep : ∀ p q l, P p → Slot.scanStep rom p = some (q, l) → P q) (mode : FeedMode) (bs : List Byte) {p : Slot}
    (h : P p) : P (p.feed rom mode bs).1 := by
  cases mode with
  | bulk => exact Slot.runScan_induction hstep (List.foldlRecOn bs Slot.push h fun q hq b _ => hpush q b hq)
  | perByte => exact Slot.feedPerByte_induction (fun q b hq => Slot.runScan_induction hstep (hpush q b hq)) bs h

/-- 10_state R23, R24, R41: FEED writes neither LIVE, CB nor CTX. -/
theorem Slot.feed_keeps_bindings (rom : Rom) (mode : FeedMode) (p : Slot) (bs : List Byte) :
    (p.feed rom mode bs).1.live = p.live ∧ (p.feed rom mode bs).1.cb = p.cb ∧ (p.feed rom mode bs).1.ctx = p.ctx := by
  refine Slot.feed_induction (P := fun q => q.live = p.live ∧ q.cb = p.cb ∧ q.ctx = p.ctx) (fun q b hq => hq) ?_ mode bs
    ⟨rfl, rfl, rfl⟩
  rintro q q' l ⟨hlive, hcb, hctx⟩ hstep
  obtain ⟨hlive', hcb', hctx', -, -⟩ := Slot.scanStep_keeps rom q q' l hstep
  exact ⟨hlive'.trans hlive, hcb'.trans hcb, hctx'.trans hctx⟩

theorem SlotWrite.keeps_bindings {s : State} {i : Instr} {h : Nat} {p q : Slot} (hw : SlotWrite s i h p q)
    (hcreate : ∀ cb ctx, i ≠ .create cb ctx) :
    q.cb = p.cb ∧ q.ctx = p.ctx ∧ ((∀ h', i ≠ .destroy h') → q.live = p.live) := by
  cases hw with
  | create ctx _ _ => exact absurd rfl (hcreate _ ctx)
  | feed buf n _ =>
    obtain ⟨hlive, hcb, hctx⟩ := Slot.feed_keeps_bindings s.rom s.feedMode p (s.readBuffer buf n.toNat)
    exact ⟨hcb, hctx, fun _ => hlive⟩
  | reset _ => exact ⟨rfl, rfl, fun _ => rfl⟩
  | destroy _ => exact ⟨rfl, rfl, fun hdestroy => absurd rfl (hdestroy h)⟩

/-- Settles O52: a slot that a command writes comes from FEED, RESET or DESTROY once CREATE is excluded, and none of them
writes CB or CTX. -/
theorem bindingsAreWrittenByCreateAlone : Obligations.BindingsAreWrittenByCreateAlone := by
  intro i s t h p hexec hcreate hp
  have hsome : (t.slot? h).isSome = true := by rw [exec_keeps_slot?_isSome h hexec, hp]; rfl
  obtain ⟨q, hq⟩ := Option.isSome_iff_exists.mp hsome
  refine ⟨q, hq, ?_⟩
  rcases exec_slot_cases hexec hq with hsame | ⟨p', hp', hw⟩
  · obtain rfl : p = q := Option.some.inj (hp.symm.trans hsame)
    exact ⟨rfl, rfl, fun _ => rfl⟩
  · obtain rfl : p = p' := Option.some.inj (hp.symm.trans hp')
    exact hw.keeps_bindings hcreate

/-! ### Register bounds and quiescence (10_state R37, 43_parser R250) -/

theorem Slot.BoundsOk.push {p : Slot} (h : p.BoundsOk) (b : Byte) : (p.push b).BoundsOk := by
  obtain ⟨hcount, hexp⟩ := h
  refine ⟨?_, hexp⟩
  by_cases hroom : p.count.toNat < 4096
  · rw [Slot.push_count_of_lt p b hroom]; omega
  · rw [Slot.push_count_of_full p b hroom]; exact hcount

theorem Slot.BoundsOk.pushAll {p : Slot} (h : p.BoundsOk) (bs : List Byte) : (p.pushAll bs).BoundsOk :=
  List.foldlRecOn bs Slot.push h fun _ hq b _ => hq.push b

theorem Slot.BoundsOk.runScan {p : Slot} (h : p.BoundsOk) (rom : Rom) : (p.runScan rom).1.BoundsOk :=
  Slot.runScan_induction (fun q q' l hq hstep => (Slot.scanStep_bounds rom q q' l hq hstep).1) h

/-- 43_parser R220, R251: within the register bounds a scan ends at a step that awaits. -/
theorem Slot.scanStep_runScan (rom : Rom) {p : Slot} (h : p.BoundsOk) : (p.runScan rom).1.scanStep rom = none := by
  induction hm : p.scanMeasure using Nat.strong_induction_on generalizing p with
  | _ m ih =>
    cases hs : p.scanStep rom with
    | none => rw [Slot.runScan_of_none rom p hs]; exact hs
    | some r =>
      obtain ⟨hbounds, hless⟩ := Slot.scanStep_bounds rom p r.1 r.2 h hs
      rw [Slot.runScan_of_some rom p r.1 r.2 h hs]
      exact ih _ (hm ▸ hless) hbounds rfl

/-- 43_parser R250: a slot that awaits within the register bounds is quiescent. -/
theorem Slot.quiescent_of_scanStep_none {rom : Rom} {p : Slot} (hb : p.BoundsOk) (h : p.scanStep rom = none) :
    p.Quiescent := by
  rcases (Slot.scanStep_none rom p).mp h with ⟨hseek, hempty | ⟨hsof, hshort⟩⟩ | ⟨hacc, hless⟩
  · exact .inl ⟨hseek, hempty⟩
  · by_cases hempty : p.count.toNat = 0
    · exact .inl ⟨hseek, hempty⟩
    · exact .inr (.inl ⟨hseek, hsof, by omega, by omega⟩)
  · exact .inr (.inr ⟨hacc, hless, (hb.2 hacc).2⟩)

theorem Slot.quiescent_runScan (rom : Rom) {p : Slot} (h : p.BoundsOk) : (p.runScan rom).1.Quiescent :=
  Slot.quiescent_of_scanStep_none (h.runScan rom) (Slot.scanStep_runScan rom h)

/-- A quiescent slot has room for a push. -/
theorem Slot.Quiescent.count_lt {p : Slot} (h : p.Quiescent) : p.count.toNat < 4096 := by
  rcases h with ⟨-, hc⟩ | ⟨-, -, -, hc⟩ | ⟨-, hc, he⟩ <;> omega

/-- 43_parser R250: a FEED of a quiescent slot within the register bounds leaves it so. -/
theorem Slot.quiescent_feed (rom : Rom) (mode : FeedMode) {p : Slot} (bs : List Byte) (hb : p.BoundsOk)
    (hq : p.Quiescent) : (p.feed rom mode bs).1.Quiescent := by
  cases mode with
  | bulk => exact Slot.quiescent_runScan rom (hb.pushAll bs)
  | perByte =>
    refine (Slot.feedPerByte_induction (P := fun q => q.BoundsOk ∧ q.Quiescent) ?_ bs ⟨hb, hq⟩).2
    rintro q b ⟨hqb, -⟩
    exact ⟨(hqb.push b).runScan rom, Slot.quiescent_runScan rom (hqb.push b)⟩

end Sys2Proof.Machine
end

section
/-! The latched header (10_state R38): a push with room and every scanner step keep it at Ring[0..3]. -/

namespace Sys2Proof.Machine

/-- What pushes with room keep, a run of pushes keeps as long as there is room. -/
theorem Slot.pushAll_induction_of_room {P : Slot → Prop}
    (hpush : ∀ p b, p.count.toNat < 4096 → P p → P (Slot.push p b)) (bs : List Byte) {p : Slot}
    (hroom : p.count.toNat + bs.length ≤ 4096) (h : P p) : P (p.pushAll bs) := by
  induction bs generalizing p with
  | nil => exact h
  | cons b bs ih =>
    rw [List.length_cons] at hroom
    have hlt : p.count.toNat < 4096 := by omega
    exact ih (by rw [Slot.push_count_of_lt p b hlt]; omega) (hpush p b hlt h)

/-- 43_parser R253: what pushes with room and scanner steps keep, a FEED without an overwrite keeps, since a PER_BYTE FEED
pushes each byte into a quiescent slot. -/
theorem Slot.feed_induction_of_noOverwrite {rom : Rom} {P : Slot → Prop}
    (hpush : ∀ p b, p.count.toNat < 4096 → P p → P (Slot.push p b))
    (hstep : ∀ p q l, P p → Slot.scanStep rom p = some (q, l) → P q) {mode : FeedMode} {bs : List Byte} {p : Slot}
    (hb : p.BoundsOk) (hq : p.Quiescent) (hroom : p.NoOverwrite mode bs.length) (h : P p) :
    P (p.feed rom mode bs).1 := by
  cases mode with
  | bulk =>
    have hfits : p.count.toNat + bs.length ≤ 4096 := hroom.resolve_left FeedMode.noConfusion
    exact Slot.runScan_induction hstep (Slot.pushAll_induction_of_room hpush bs hfits h)
  | perByte =>
    refine (Slot.feedPerByte_induction (P := fun q => q.BoundsOk ∧ q.Quiescent ∧ P q) ?_ bs ⟨hb, hq, h⟩).2.2
    rintro q b ⟨hqb, hqq, hqP⟩
    exact ⟨(hqb.push b).runScan rom, Slot.quiescent_runScan rom (hqb.push b),
      Slot.runScan_induction hstep (hpush q b hqq.count_lt hqP)⟩

theorem Slot.HeaderLatched.push {rom : Rom} {p : Slot} (b : Byte) (hroom : p.count.toNat < 4096)
    (h : p.HeaderLatched rom) : (p.push b).HeaderLatched rom := by
  intro hacc
  obtain ⟨hsof, hok, hlen, hfour⟩ := h hacc
  have hheader : (p.push b).header = p.header := Slot.copy_push p b 4 hfour hroom
  refine ⟨?_, ?_, ?_, ?_⟩
  · rw [Slot.ringAt_push_old p b 0 hroom (by omega), hsof]
  · rw [headerOk_congr rom _ p hheader, hok]
  · rw [hheader, hlen, Slot.push_expLen]
  · rw [Slot.push_count_of_lt p b hroom]; omega

/-- 43_parser R226: a latch sets EXPLEN to the header's length field, which fits it. -/
theorem Slot.latch_expLen_toNat (p : Slot) : (p.latch (lenOf p.header)).expLen.toNat = lenOf p.header := by
  have hlt := lenOf_lt p.header
  rw [Slot.latch_expLen, BitVec.toNat_ofNat]
  omega

/-- All steps but S_LATCH end in SEEKING_START, where nothing is latched. -/
theorem Slot.HeaderLatched.scanStep {rom : Rom} {p q : Slot} {l : Option Label} (h : p.scanStep rom = some (q, l)) :
    q.HeaderLatched rom := by
  intro hacc
  rcases Slot.scanStep_some rom p q l h with ⟨hs, -, -, rfl, -⟩ | ⟨hs, -, -, -, rfl, -⟩ | ⟨hs, -, -, -, -, rfl, -⟩ |
    ⟨-, hfour, hsof, hok, -, rfl, -⟩ | ⟨-, -, rfl, -⟩
  · cases hs.symm.trans hacc
  · cases hs.symm.trans hacc
  · cases hs.symm.trans hacc
  · exact ⟨hsof, hok, (Slot.latch_expLen_toNat p).symm, hfour⟩
  · cases hacc

/-- Settles O44: a push with room leaves the header's four bytes alone, and a scanner step ends seeking or latches the
header that it checked. -/
theorem latchedHeaderStaysInPlace : Obligations.LatchedHeaderStaysInPlace := by
  intro rom mode p bs hb hq hroom h
  exact Slot.feed_induction_of_noOverwrite (fun q b hlt hlatched => hlatched.push b hlt)
    (fun q q' l _ hstep => Slot.HeaderLatched.scanStep hstep) hb hq hroom h

end Sys2Proof.Machine
end

section
/-! The invariant between commands (10_state R37): every write of a slot keeps it, hence every step. -/

namespace Sys2Proof.Machine

/-! ### The ring stays canonical (20_memory R64) -/

theorem Memory.mem_cons {c : Host.Cell} {a : Nat} {b : Byte} {m : Memory} (h : c ∈ Memory.cons a b m) :
    c.1 = a ∨ c ∈ m := by
  unfold Memory.cons at h
  split at h
  · exact .inr h
  · exact (List.mem_cons.mp h).imp_left fun hc => by rw [hc]

/-- A write adds no cell but one at its own address. -/
theorem Memory.mem_write {c : Host.Cell} {m : Memory} {a : Nat} {b : Byte} (h : c ∈ Memory.write m a b) :
    c.1 = a ∨ c ∈ m := by
  induction m with
  | nil => exact Memory.mem_cons h
  | cons d m ih =>
    obtain ⟨k, e⟩ := d
    unfold Memory.write at h
    split at h
    · exact Memory.mem_cons h
    split at h
    · exact (Memory.mem_cons h).imp_right (List.mem_cons_of_mem _)
    · rcases List.mem_cons.mp h with hc | hc
      · exact .inr (List.mem_cons.mpr (.inl hc))
      · exact (ih hc).imp_right (List.mem_cons_of_mem _)

/-- A push writes at HEAD, a physical index. -/
theorem Slot.RingOk.push {p : Slot} (h : p.RingOk) (b : Byte) : (p.push b).RingOk := by
  obtain ⟨hwf, hlt⟩ := h
  refine ⟨Memory.wf_write p.ring p.head.toNat b hwf, fun c hc => ?_⟩
  rcases Memory.mem_write hc with hhead | hold
  · rw [hhead]; exact p.head.isLt
  · exact hlt c hold

/-! ### What a LIVE slot keeps inside a FEED -/

/-- The part of the invariant that holds between the pushes and scanner steps of a FEED too (10_state R37): the ring, the
bounds, and that a latched header's four bytes are buffered. -/
def Slot.InFeedOk (p : Slot) : Prop :=
  p.RingOk ∧ p.BoundsOk ∧ (p.scan = .accumulatingFrame → 4 ≤ p.count.toNat)

theorem Slot.InFeedOk.push {p : Slot} (h : p.InFeedOk) (b : Byte) : (p.push b).InFeedOk := by
  obtain ⟨hring, hbounds, hfour⟩ := h
  refine ⟨hring.push b, hbounds.push b, fun hacc => ?_⟩
  have hp : 4 ≤ p.count.toNat := hfour hacc
  by_cases hroom : p.count.toNat < 4096
  · rw [Slot.push_count_of_lt p b hroom]; omega
  · rw [Slot.push_count_of_full p b hroom]; exact hp

theorem Slot.InFeedOk.scanStep {rom : Rom} {p q : Slot} {l : Option Label} (h : p.InFeedOk)
    (hstep : p.scanStep rom = some (q, l)) : q.InFeedOk := by
  obtain ⟨hring, hbounds, -⟩ := h
  obtain ⟨-, -, -, hsame, -⟩ := Slot.scanStep_keeps rom p q l hstep
  refine ⟨?_, (Slot.scanStep_bounds rom p q l hbounds hstep).1, fun hacc => ?_⟩
  · rw [Slot.RingOk, hsame]; exact hring
  · obtain ⟨-, -, -, hfour⟩ := Slot.HeaderLatched.scanStep hstep hacc
    exact hfour

theorem Slot.InFeedOk.feed {p : Slot} (h : p.InFeedOk) (rom : Rom) (mode : FeedMode) (bs : List Byte) :
    (p.feed rom mode bs).1.InFeedOk :=
  Slot.feed_induction (fun _ b hq => hq.push b) (fun _ _ _ hq hstep => hq.scanStep hstep) mode bs h

/-! ### The invariant of one slot -/

/-- The invariant of one slot between commands. -/
def Slot.Ok (p : Slot) : Prop := p.RingOk ∧ (p.live = true → p.RegistersOk)

/-- 43_parser R210, R218: a cleared slot with a callback meets the invariant. -/
theorem Slot.RegistersOk.clear {p : Slot} (hcb : p.cb ≠ none) : p.clear.RegistersOk :=
  ⟨hcb, ⟨by simp, by simp⟩, .inl ⟨rfl, rfl⟩, by simp⟩

theorem Slot.Ok.feed {p : Slot} (h : p.Ok) (hlive : p.live = true) (rom : Rom) (mode : FeedMode) (bs : List Byte) :
    (p.feed rom mode bs).1.Ok := by
  obtain ⟨hring, hregs⟩ := h
  obtain ⟨hcb, hbounds, hquiescent, hfour⟩ := hregs hlive
  obtain ⟨hring', hbounds', hfour'⟩ := Slot.InFeedOk.feed ⟨hring, hbounds, hfour⟩ rom mode bs
  obtain ⟨-, hcb', -⟩ := Slot.feed_keeps_bindings rom mode p bs
  exact ⟨hring', fun _ => ⟨hcb' ▸ hcb, hbounds', Slot.quiescent_feed rom mode bs hbounds hquiescent, hfour'⟩⟩

theorem SlotWrite.keeps_ok {s : State} {i : Instr} {h : Nat} {p q : Slot} (hw : SlotWrite s i h p q) (hp : p.Ok) :
    q.Ok := by
  have ⟨hring, hregs⟩ := hp
  cases hw with
  | create ctx _ hcb => exact ⟨hring, fun _ => Slot.RegistersOk.clear hcb⟩
  | feed buf n hlive => exact hp.feed hlive _ _ _
  | reset hlive =>
    obtain ⟨hcb, -, -, -⟩ := hregs hlive
    exact ⟨hring, fun _ => Slot.RegistersOk.clear hcb⟩
  | destroy _ => exact ⟨hring, fun hlive => by simp at hlive⟩

/-! ### The invariant of the state -/

theorem State.ok_iff (s : State) : s.Ok ↔ Memory.wf s.mem = true ∧ ∀ h p, s.slot? h = some p → p.Ok := by
  refine and_congr_right fun _ => ⟨fun hs h p hp => hs p (State.slot?_mem s h p hp), fun hs p hp => ?_⟩
  obtain ⟨k, hk⟩ := List.mem_iff_getElem?.mp hp
  exact hs (k + 1) p hk

theorem exec_keeps_ok {i : Instr} {s t : State} (hexec : exec i s = .next t) (hs : s.Ok) : t.Ok := by
  obtain ⟨hmem, hslots⟩ := (State.ok_iff s).mp hs
  refine (State.ok_iff t).mpr ⟨exec_keeps_mem_wf hexec hmem, fun h q hq => ?_⟩
  rcases exec_slot_cases hexec hq with hsame | ⟨p, hp, hw⟩
  · exact hslots h q hsame
  · exact hw.keeps_ok (hslots h p hp)

/-- Settles O55: taking a command off the queue and recording a fault leave memory and slots alone, and a command that
runs keeps the invariant of host memory and of every slot it writes. -/
theorem stepKeepsTheInvariant : Obligations.StepKeepsTheInvariant := by
  intro s t hs hstep
  rcases step_cases s t hstep with ⟨-, rfl⟩ | ⟨c, rest, -, -, ⟨r, rfl⟩ | ⟨i, -, hexec⟩⟩
  · exact hs
  · exact hs
  · exact exec_keeps_ok hexec hs

end Sys2Proof.Machine
end

section
/-! The ring operations on the logical contents (20_memory R66 to R68). -/

namespace Sys2Proof.Machine

/-! ### RingCopy and RingDiscard (20_memory R67, R68) -/

theorem Slot.copy_succ (p : Slot) (n : Nat) : p.copy (n + 1) = p.copy n ++ [p.ringAt n] := by
  simp [Slot.copy, List.range_succ]

/-- Within COUNT a copy is the oldest bytes of the contents. -/
theorem Slot.copy_eq_take_contents {p : Slot} {n : Nat} (hn : n ≤ p.count.toNat) : p.copy n = p.contents.take n := by
  rw [Slot.contents, Slot.copy, Slot.copy, ← List.map_take, List.take_range, Nat.min_eq_left hn]

theorem Slot.contents_discard {p : Slot} {n : Nat} (hn : n ≤ p.count.toNat) :
    (p.discard n).contents = p.contents.drop n := by
  refine List.ext_getElem ?_ fun i hi hi' => ?_
  · rw [List.length_drop, Slot.contents_length, Slot.contents_length, Slot.discard_count_toNat p n hn]
  · simp only [Slot.contents, List.getElem_drop, Slot.getElem_copy]
    exact Slot.ringAt_discard p n i hn

theorem Slot.start_discard_toNat {p : Slot} {n : Nat} (hn : n ≤ p.count.toNat) :
    (p.discard n).start.toNat = (p.start.toNat + n) % 4096 := by
  have hcount := p.count.isLt
  rw [Slot.start_toNat, Slot.start_toNat, Slot.discard_head, Slot.discard_count_toNat p n hn]
  omega

/-- Settles O31: a discard moves START and lowers COUNT, so each logical position reads what stood `n` further on. -/
theorem ringDiscardAndCopy : Obligations.RingDiscardAndCopy := by
  intro p n hn
  exact ⟨Slot.discard_count_toNat p n hn, Slot.contents_discard hn, Slot.discard_head p n, Slot.discard_ring p n,
    Slot.start_discard_toNat hn, Slot.copy_eq_take_contents hn⟩

/-! ### RingPush (20_memory R66) -/

theorem Slot.push_count_toNat {p : Slot} (b : Byte) (hcount : p.count.toNat ≤ 4096) :
    (p.push b).count.toNat = min (p.count.toNat + 1) 4096 := by
  by_cases hroom : p.count.toNat < 4096
  · rw [Slot.push_count_of_lt p b hroom]; omega
  · rw [Slot.push_count_of_full p b hroom]; omega

theorem Slot.contents_push_of_lt {p : Slot} (b : Byte) (hw : Memory.wf p.ring = true) (hroom : p.count.toNat < 4096) :
    (p.push b).contents = p.contents ++ [b] := by
  rw [Slot.contents, Slot.push_count_of_lt p b hroom, Slot.copy_succ, Slot.copy_push p b _ (Nat.le_refl _) hroom,
    Slot.ringAt_push_new p b hroom hw, Slot.contents]

/-- A push into a full ring is a push with room after the oldest byte is discarded. -/
theorem Slot.push_of_full {p : Slot} (b : Byte) (hfull : p.count.toNat = 4096) :
    p.push b = (p.discard 1).push b := by
  have hone : (p.discard 1).count.toNat = 4095 := by rw [Slot.discard_count_toNat p 1 (by omega), hfull]
  have hcount : (p.push b).count = ((p.discard 1).push b).count := by
    apply BitVec.eq_of_toNat_eq
    rw [Slot.push_count_of_full p b (by omega), Slot.push_count_of_lt _ b (by omega), hfull, hone]
  simp only [Slot.discard, Slot.push] at hcount ⊢
  rw [hcount]

theorem Slot.contents_push_of_full {p : Slot} (b : Byte) (hw : Memory.wf p.ring = true)
    (hfull : p.count.toNat = 4096) : (p.push b).contents = p.contents.drop 1 ++ [b] := by
  have hone : (p.discard 1).count.toNat < 4096 := by rw [Slot.discard_count_toNat p 1 (by omega)]; omega
  rw [Slot.push_of_full b hfull, Slot.contents_push_of_lt (p := p.discard 1) b hw hone,
    Slot.contents_discard (by omega)]

/-- Settles O30: with room the byte is appended, and a full ring makes room by losing its oldest byte; the write of RING
is at HEAD, and of the other registers HEAD and COUNT alone move. -/
theorem ringPushAppendsOrOverwrites : Obligations.RingPushAppendsOrOverwrites := by
  intro p b hw hcount
  refine ⟨?_, Slot.push_head_toNat p b, Slot.push_count_toNat b hcount, Memory.read_write_self _ _ _ hw,
    fun x hx => Memory.read_write_other _ _ _ _ hx, rfl, rfl, rfl, rfl, rfl⟩
  split
  · next hroom => exact Slot.contents_push_of_lt b hw hroom
  · next hfull => exact Slot.contents_push_of_full b hw (by omega)

end Sys2Proof.Machine
end

section
/-! Which slot a command may write (20_memory R63), and the overlap that BUILD refuses (20_memory R80). -/

namespace Sys2Proof.Machine

/-- No slot has the NULL handle (10_state R22). -/
theorem State.ne_zero_of_slot?_eq_some {s : State} {h : Nat} {p : Slot} (hp : s.slot? h = some p) : h ≠ 0 := by
  rintro rfl
  simp at hp

/-- CREATE aside, a command writes no slot but its target's. -/
theorem SlotWrite.targetOf_eq {s : State} {i : Instr} {h : Nat} {p q : Slot} (hw : SlotWrite s i h p q) (hne : h ≠ 0)
    (hcreate : ∀ cb ctx, i ≠ .create cb ctx) : targetOf i = some h := by
  cases hw with
  | create ctx _ _ => exact absurd rfl (hcreate _ ctx)
  | feed _ _ _ => exact if_neg hne
  | reset _ => exact if_neg hne
  | destroy _ => exact if_neg hne

/-- Settles O53: a slot found after the command stood there before, or the command wrote it and so targets it;
and a command makes no slot appear or vanish. -/
theorem instancesAreIndependent : Obligations.InstancesAreIndependent := by
  intro i s t h hexec hcreate htarget
  have hsome := exec_keeps_slot?_isSome h hexec
  cases hq : t.slot? h with
  | none =>
    have hnone : ¬ (s.slot? h).isSome = true := by rw [← hsome, hq]; decide
    exact (Option.not_isSome_iff_eq_none.mp hnone).symm
  | some q =>
    rcases exec_slot_cases hexec hq with hsame | ⟨p, hp, hw⟩
    · exact hsame.symm
    · exact absurd (hw.targetOf_eq (State.ne_zero_of_slot?_eq_some hp) hcreate) htarget

/-- 60_exceptions R276: BUILD looks at the overlap before any other cause. -/
theorem execBuild_of_overlaps {out pay : Ref} {cap n : Len} (hoverlap : overlaps out cap pay n = true)
    (st si rt ri : Byte) (seq : Half) (pt ack enc cls mid : Byte) (s : State) :
    execBuild out cap st si rt ri seq pt ack enc cls mid pay n s = .next (s.recordFault .buildOverlap) :=
  if_pos hoverlap

/-- With FAULTS empty a recorded fault is its only member (10_state R36). -/
theorem State.recordFault_of_faults_nil {s : State} (hfaults : s.faults = []) (r : FaultReason) :
    s.recordFault r = { s with faults := [r] } := by
  simp [State.recordFault, hfaults]

/-- Settles O17: two non-empty ranges that share an address overlap, and BUILD then only records the fault. -/
theorem overlappingBuildRecordsFault : Obligations.OverlappingBuildRecordsFault := by
  intro s o a cap q n hfaults hcap hn hstart hend
  have hoverlap := (overlaps_iff o a cap n).mpr ⟨hcap, hn, hstart, hend⟩
  rw [← State.recordFault_of_faults_nil hfaults]
  exact execBuild_of_overlaps hoverlap q.st q.si q.rt q.ri q.seq q.pt q.ack q.enc q.cls q.mid s

end Sys2Proof.Machine
end

section
/-! The codec as one equivalence: bytes decode to an instruction at a port exactly when they are the words of a
well-formed instruction read at that port. It is built from one equivalence per reader of an operand. -/

namespace Sys2Proof

open Machine

/-! ### Each reader accepts exactly the bytes its writer makes -/

theorem except_bind_eq_ok_iff {α β ε : Type} {x : Except ε α} {f : α → Except ε β} {b : β} :
    (x >>= f) = .ok b ↔ ∃ a, x = .ok a ∧ f a = .ok b := by
  constructor
  · exact except_bind_ok x f b
  · rintro ⟨a, rfl, h⟩
    exact h

theorem takeNat_eq_ok_iff {n : Nat} {bs : List Byte} {v : Nat} {rest : List Byte} :
    takeNat n bs = .ok (v, rest) ↔ bs = leBytes n v ++ rest ∧ v < 256 ^ n := by
  constructor
  · intro h
    obtain ⟨hbs, hv, -⟩ := takeNat_ok n bs v rest h
    exact ⟨hbs, hv⟩
  · rintro ⟨rfl, hv⟩
    rw [takeNat_leBytes, Nat.mod_eq_of_lt hv]

theorem takeBits_eq_ok_iff {n w : Nat} (hw : w = 8 * n) {bs : List Byte} {v : BitVec w} {rest : List Byte} :
    takeBits n w bs = .ok (v, rest) ↔ bs = putBits n v ++ rest := by
  constructor
  · exact fun h => (takeBits_ok n w bs v rest hw h).1
  · rintro rfl
    exact takeBits_putBits n w v rest hw

theorem takeOptional_eq_ok_iff {bs : List Byte} {v : Option (BitVec 64)} {rest : List Byte} :
    takeOptional bs = .ok (v, rest) ↔ bs = putOptional v ++ rest := by
  constructor
  · exact fun h => (takeOptional_ok bs v rest h).1
  · rintro rfl
    exact takeOptional_putOptional v rest

theorem takeBuffer_eq_ok_iff {bs : List Byte} {buf : Ref} {n : Len} {rest : List Byte} :
    takeBuffer bs = .ok ((buf, n), rest) ↔ bs = putBuffer buf n ++ rest := by
  constructor
  · exact fun h => (takeBuffer_ok bs buf n rest h).1
  · rintro rfl
    exact takeBuffer_putBuffer buf n rest

/-! ### Commands (30_encoding R109) -/

/-- The command code of an instruction, none for a row of the message dispatch. -/
def Instr.opcode? : Instr → Option Opcode
  | .ck8 _ _ => some .ck8
  | .ck16 _ _ => some .ck16
  | .decode _ _ => some .decode
  | .build _ _ _ _ _ _ _ _ _ _ _ _ _ _ => some .build
  | .create _ _ => some .create
  | .feed _ _ _ => some .feed
  | .reset _ => some .reset
  | .destroy _ => some .destroy
  | .rcPush _ _ => none
  | .enable _ _ => none
  | .channelRequest _ _ => none
  | .other _ _ => none

/-- The operand bytes of a command: its words after CODE. -/
def Instr.operandBytes (i : Instr) : List Byte := (encode i).tail

theorem encode_of_opcode? {i : Instr} {o : Opcode} (h : i.opcode? = some o) : encode i = o.code :: i.operandBytes := by
  cases i <;> cases h <;> rfl

theorem operandBytes_length_of_opcode? {i : Instr} {o : Opcode} (h : i.opcode? = some o) :
    i.operandBytes.length = o.operandLength := by
  have hlength : (encode i).length = 1 + o.operandLength := by
    cases i with
    | ck8 buf n => cases h; exact Laws.EncodedLength.ck8 buf n
    | ck16 buf n => cases h; exact Laws.EncodedLength.ck16 buf n
    | decode buf n => cases h; exact Laws.EncodedLength.decode buf n
    | build out cap st si rt ri seq pt ack enc cls mid pay n =>
      cases h; exact Laws.EncodedLength.build out cap st si rt ri seq pt ack enc cls mid pay n
    | create cb ctx => cases h; exact Laws.EncodedLength.create cb ctx
    | feed hd buf n => cases h; exact Laws.EncodedLength.feed hd buf n
    | reset hd => cases h; exact Laws.EncodedLength.reset hd
    | destroy hd => cases h; exact Laws.EncodedLength.destroy hd
    | rcPush | enable | channelRequest | other => cases h
  rw [encode_of_opcode? h, List.length_cons] at hlength
  omega

/-- The instructions read from the command port are those with a command code. -/
theorem portOf_eq_command_iff (i : Instr) : portOf i = .command ↔ ∃ o, i.opcode? = some o := by
  cases i <;> simp [portOf, Instr.opcode?]

theorem Opcode.ofByte?_eq_some_iff {c : Byte} {o : Opcode} : Opcode.ofByte? c = some o ↔ c = o.code := by
  constructor
  · intro h
    rw [Opcode.ofByte?] at h
    have hcode := List.find?_some h
    exact (beq_iff_eq.mp hcode).symm
  · rintro rfl
    cases o <;> decide

theorem Opcode.code_mem (o : Opcode) :
    o.code ∈ [0x01#8, 0x02#8, 0x10#8, 0x20#8, 0x30#8, 0x31#8, 0x32#8, 0x33#8] := by
  cases o <;> decide

theorem Opcode.code_injective : Function.Injective Opcode.code := by
  intro o o' h
  have hname := Opcode.ofByte?_eq_some_iff.mpr h
  rw [Opcode.ofByte?_eq_some_iff.mpr rfl] at hname
  exact Option.some.inj hname

theorem noMore_eq_ok_iff {x : Except DecodeError (Instr × List Byte)} {i : Instr} :
    noMore x = .ok i ↔ x = .ok (i, []) := by
  rcases x with e | ⟨j, _ | ⟨b, bs⟩⟩ <;> simp [noMore]

theorem handleFits_iff (h : Nat) : handleFits h = true ↔ h < 256 ^ 4 := by
  rw [handleFits, decide_eq_true_iff]
  norm_num

/-- The readers of a command's operand list, taken together, accept only the operand bytes of a well-formed command. -/
theorem takeOperands_ok {o : Opcode} {bs : List Byte} {i : Instr} {rest : List Byte}
    (h : takeOperands o bs = .ok (i, rest)) :
    i.opcode? = some o ∧ WellFormed i = true ∧ bs = i.operandBytes ++ rest := by
  cases o <;>
    simp only [takeOperands, except_bind_eq_ok_iff, Prod.exists, takeBuffer_eq_ok_iff, takeOptional_eq_ok_iff,
      takeNat_eq_ok_iff, takeBits_eq_ok_iff (w := 8) (n := 1) rfl, takeBits_eq_ok_iff (w := 16) (n := 2) rfl] at h
  case build =>
    obtain ⟨out, cap, _, rfl, st, _, rfl, si, _, rfl, rt, _, rfl, ri, _, rfl, seq, _, rfl, pt, _, rfl, ack, _, rfl,
      enc, _, rfl, cls, _, rfl, mid, _, rfl, pay, n, _, rfl, h⟩ := h
    cases h
    exact ⟨rfl, rfl, by simp [Instr.operandBytes, encode]⟩
  case create =>
    obtain ⟨cb, _, rfl, ctx, _, rfl, h⟩ := h
    cases h
    exact ⟨rfl, rfl, by simp [Instr.operandBytes, encode]⟩
  case feed =>
    obtain ⟨hd, _, ⟨rfl, hfits⟩, buf, n, _, rfl, h⟩ := h
    cases h
    exact ⟨rfl, (handleFits_iff hd).mpr hfits, by simp [Instr.operandBytes, encode]⟩
  case reset | destroy =>
    obtain ⟨hd, _, ⟨rfl, hfits⟩, h⟩ := h
    cases h
    exact ⟨rfl, (handleFits_iff hd).mpr hfits, rfl⟩
  case ck8 | ck16 | decode =>
    obtain ⟨buf, n, _, rfl, h⟩ := h
    cases h
    exact ⟨rfl, rfl, rfl⟩

/-- The readers of a command's operand list give a well-formed command back from its operand bytes. -/
theorem takeOperands_operandBytes {i : Instr} {o : Opcode} (ho : i.opcode? = some o) (hwf : WellFormed i = true)
    (rest : List Byte) : takeOperands o (i.operandBytes ++ rest) = .ok (i, rest) := by
  cases i with
  | ck8 | ck16 | decode =>
    cases ho
    simp only [Instr.operandBytes, encode, List.tail_cons, takeOperands, takeBuffer_putBuffer, except_ok_bind]
    rfl
  | build =>
    cases ho
    simp only [Instr.operandBytes, encode, List.tail_cons, takeOperands, List.append_assoc, takeBuffer_putBuffer,
      takeBits_putBits _ _ _ _ rfl, except_ok_bind]
    rfl
  | create =>
    cases ho
    simp only [Instr.operandBytes, encode, List.tail_cons, takeOperands, List.append_assoc, takeOptional_putOptional,
      except_ok_bind]
    rfl
  | feed hd =>
    cases ho
    have hfits := (handleFits_iff hd).mp hwf
    simp only [Instr.operandBytes, encode, List.tail_cons, takeOperands, List.append_assoc, takeNat_leBytes,
      Nat.mod_eq_of_lt hfits, takeBuffer_putBuffer, except_ok_bind]
    rfl
  | reset hd | destroy hd =>
    cases ho
    have hfits := (handleFits_iff hd).mp hwf
    simp only [Instr.operandBytes, encode, List.tail_cons, takeOperands, takeNat_leBytes, Nat.mod_eq_of_lt hfits,
      except_ok_bind]
    rfl
  | rcPush | enable | channelRequest | other => cases ho

theorem decodeCommand_eq_ok_iff {bs : List Byte} {i : Instr} :
    decodeCommand bs = .ok i ↔ portOf i = .command ∧ WellFormed i = true ∧ bs = encode i := by
  rw [portOf_eq_command_iff]
  constructor
  · intro h
    rcases bs with _ | ⟨c, ops⟩
    · cases h
    · simp only [decodeCommand] at h
      split at h
      · cases h
      · next o ho =>
        obtain ⟨hop, hwf, hops⟩ := takeOperands_ok (noMore_eq_ok_iff.mp h)
        refine ⟨⟨o, hop⟩, hwf, ?_⟩
        rw [encode_of_opcode? hop, Opcode.ofByte?_eq_some_iff.mp ho, hops, List.append_nil]
  · rintro ⟨⟨o, hop⟩, hwf, rfl⟩
    have hread := takeOperands_operandBytes hop hwf []
    rw [List.append_nil] at hread
    simp only [encode_of_opcode? hop, decodeCommand, Opcode.ofByte?_eq_some_iff.mpr rfl]
    exact noMore_eq_ok_iff.mpr hread

/-! ### Candidate frames (30_encoding R112) -/

/-- The instruction of a dispatch row for a candidate frame `f` of handle `h`. -/
def FrameKind.instr (k : FrameKind) (h : Nat) (f : List Byte) : Instr :=
  match k with
  | .rcPush => .rcPush h f
  | .enable => .enable h f
  | .channelRequest => .channelRequest h f
  | .other => .other h f

@[simp] theorem FrameKind.portOf_instr (k : FrameKind) (h : Nat) (f : List Byte) : portOf (k.instr h f) = .frame h := by
  cases k <;> rfl

@[simp] theorem FrameKind.encode_instr (k : FrameKind) (h : Nat) (f : List Byte) : encode (k.instr h f) = f := by
  cases k <;> rfl

theorem eq_instr_of_portOf_eq_frame {i : Instr} {h : Nat} (hport : portOf i = .frame h) :
    ∃ k : FrameKind, i = k.instr h (encode i) := by
  cases i with
  | rcPush => cases hport; exact ⟨.rcPush, rfl⟩
  | enable => cases hport; exact ⟨.enable, rfl⟩
  | channelRequest => cases hport; exact ⟨.channelRequest, rfl⟩
  | other => cases hport; exact ⟨.other, rfl⟩
  | ck8 | ck16 | decode | build | create | feed | reset | destroy => cases hport

/-- A dispatch row is well-formed exactly for the frames of a legal length whose key selects it. -/
theorem FrameKind.wellFormed_instr_iff (k : FrameKind) (h : Nat) (f : List Byte) :
    WellFormed (k.instr h f) = true ↔ frameFits f = true ∧ frameKind (keyOf f) = k := by
  unfold frameKind
  split_ifs with hpush henable hrequest
  · cases k <;> simp [FrameKind.instr, WellFormed, namedKeys, hpush]
  · cases k <;> simp [FrameKind.instr, WellFormed, namedKeys, henable]
  · cases k <;> simp [FrameKind.instr, WellFormed, namedKeys, hrequest]
  · cases k <;> simp [FrameKind.instr, WellFormed, namedKeys, hpush, henable, hrequest]

theorem decodeFrame_eq (h : Nat) (f : List Byte) :
    decodeFrame h f = if frameFits f then .ok ((frameKind (keyOf f)).instr h f) else .error .frameLength := by
  unfold decodeFrame
  cases frameKind (keyOf f) <;> rfl

theorem decodeFrame_eq_ok_iff {h : Nat} {f : List Byte} {i : Instr} :
    decodeFrame h f = .ok i ↔ portOf i = .frame h ∧ WellFormed i = true ∧ f = encode i := by
  rw [decodeFrame_eq]
  constructor
  · intro hdecode
    split at hdecode
    · next hfits =>
      cases hdecode
      exact ⟨FrameKind.portOf_instr _ h f, (FrameKind.wellFormed_instr_iff _ h f).mpr ⟨hfits, rfl⟩,
        (FrameKind.encode_instr _ h f).symm⟩
    · cases hdecode
  · rintro ⟨hport, hwf, rfl⟩
    obtain ⟨k, hi⟩ := eq_instr_of_portOf_eq_frame hport
    rw [hi] at hwf
    obtain ⟨hfits, hkind⟩ := (FrameKind.wellFormed_instr_iff k h _).mp hwf
    rw [if_pos hfits, hkind, ← hi]

/-- Decoding and encoding agree: bytes decode exactly when they are the words of a well-formed instruction of
that port. -/
theorem decode_eq_ok_iff {port : Port} {bs : List Byte} {i : Instr} :
    decode port bs = .ok i ↔ portOf i = port ∧ WellFormed i = true ∧ bs = encode i := by
  cases port with
  | command => exact decodeCommand_eq_ok_iff
  | frame h => exact decodeFrame_eq_ok_iff

/-- Bytes that decode at the command port are an assigned code and as many operand bytes as its list takes. -/
theorem exists_opcode_of_decode_command {code : Byte} {operands : List Byte} {i : Instr}
    (h : decode .command (code :: operands) = .ok i) :
    ∃ o : Opcode, code = o.code ∧ operands.length = o.operandLength := by
  obtain ⟨hport, -, hbytes⟩ := decode_eq_ok_iff.mp h
  obtain ⟨o, ho⟩ := (portOf_eq_command_iff i).mp hport
  rw [encode_of_opcode? ho] at hbytes
  obtain ⟨hcode, hoperands⟩ := List.cons.inj hbytes
  exact ⟨o, hcode, by rw [hoperands, operandBytes_length_of_opcode? ho]⟩

/-- Settles O58: the words of a well-formed instruction are, at its port, those of itself. -/
theorem decodeOfEncode : Obligations.DecodeOfEncode :=
  fun _ hwf => decode_eq_ok_iff.mpr ⟨rfl, hwf, rfl⟩

/-- Settles O59: a word decodes only to a well-formed instruction whose word it is. -/
theorem encodeOfDecode : Obligations.EncodeOfDecode := by
  intro port bs i h
  obtain ⟨hport, hwf, hbs⟩ := decode_eq_ok_iff.mp h
  exact ⟨hbs.symm, hport, hwf⟩

/-- Settles O60: each word is that of the command named, which is well-formed, so it decodes to that command. -/
theorem assignedCodesDecode : Obligations.AssignedCodesDecode := by
  refine ⟨?_, ?_, ?_, ?_, ?_, ?_, ?_, ?_, rfl, rfl, rfl, rfl, rfl⟩ <;> exact decode_eq_ok_iff.mpr ⟨rfl, rfl, rfl⟩

end Sys2Proof
end

section
/-! What the command port does with bytes that are no command (60_exceptions R282). -/

namespace Sys2Proof.Machine

/-- 60_exceptions R276: bytes that do not decode record ILLEGAL_COMMAND, whatever the issue pattern. -/
theorem runCommand_of_not_decodes {c : HostCommand} (s : State) (h : ∀ i, decode .command c.bytes ≠ .ok i) :
    s.runCommand c = .next (s.recordFault .illegalCommand) := by
  unfold State.runCommand
  split
  · rfl
  · next i hdecode => exact absurd hdecode (h i)

/-- Settles O3: a command that decodes has an assigned code and as many operand bytes as that code takes, and codes are
distinct. -/
theorem illegalCommandsAreRecorded : Obligations.IllegalCommandsAreRecorded := by
  intro s c rest code operands hfaults hqueue hbytes
  have illegal : (∀ i, decode .command (code :: operands) ≠ .ok i) →
      step s = .next { s with queue := rest, faults := [.illegalCommand] } := by
    intro hbad
    rw [step_of_queue_cons hfaults hqueue, runCommand_of_not_decodes _ (hbytes ▸ hbad),
      State.recordFault_of_faults_nil (s := { s with queue := rest }) hfaults]
  constructor
  · intro hcode
    refine illegal fun i hdecode => ?_
    obtain ⟨o, rfl, -⟩ := exists_opcode_of_decode_command hdecode
    exact hcode o.code_mem
  · intro o ho hlength
    refine illegal fun i hdecode => ?_
    obtain ⟨o', ho', hlength'⟩ := exists_opcode_of_decode_command hdecode
    obtain rfl := Opcode.code_injective (ho.symm.trans ho')
    exact hlength hlength'

end Sys2Proof.Machine
end

section
/-! The rows of the message dispatch and the scanner's classification (30_encoding R112). -/

namespace Sys2Proof.Machine

/-- A dispatch row delivers what the dispatch on its own key says. -/
theorem exec_instr_of_frameKind {f : List Byte} {k : FrameKind} (hkind : frameKind (keyOf f) = k) (h : Nat)
    (s : State) : exec (k.instr h f) s = .next (s.retire h (dispatchLabel f)) := by
  cases k <;> simp only [dispatchLabel, hkind] <;> rfl

theorem exec_of_decode_frame {h : Nat} {f : List Byte} {i : Instr} (hdecode : decode (.frame h) f = .ok i) (s : State) :
    exec i s = .next (s.retire h (dispatchLabel f)) := by
  obtain ⟨hport, hwf, rfl⟩ := decode_eq_ok_iff.mp hdecode
  obtain ⟨k, hi⟩ := eq_instr_of_portOf_eq_frame hport
  rw [hi] at hwf
  obtain ⟨-, hkind⟩ := (FrameKind.wellFormed_instr_iff k h _).mp hwf
  rw [hi, FrameKind.encode_instr]
  exact exec_instr_of_frameKind hkind h s

theorem State.retire_of_live {s : State} {h : Nat} {p : Slot} (hp : s.slot? h = some p) (hlive : p.live = true)
    (l : Label) : s.retire h l = s.deliver h p [l] := by
  rw [State.retire, (State.liveSlot?_eq_some s h p).mpr ⟨hp, hlive⟩]

theorem State.retire_of_not_live {s : State} {h : Nat} (hnone : s.liveSlot? h = none) (l : Label) :
    s.retire h l = s.recordFault .invalidHandle := by
  rw [State.retire, hnone]

/-- 43_parser R229, R230: past the frame gate a candidate is classified by its key. -/
theorem classify_of_frameOk {rom : Rom} {f : List Byte} (hok : frameOk rom f = true) :
    classify rom f = dispatchLabel f :=
  if_pos hok

/-- Settles O47: the row a candidate decodes to is the one its key selects, which past the frame gate is the one the
scanner's classification takes. -/
theorem candidateRunsItsTableRow : Obligations.CandidateRunsItsTableRow := by
  intro s h f i hdecode
  constructor
  · intro p hp hlive hok
    rw [exec_of_decode_frame hdecode, State.retire_of_live hp hlive, classify_of_frameOk hok]
  · intro hfaults hnone
    rw [exec_of_decode_frame hdecode, State.retire_of_not_live hnone, State.recordFault_of_faults_nil hfaults]

end Sys2Proof.Machine
end

section
/-! The bytes of a built frame and what the field accessors read from them (30_encoding R90 to R98). -/

namespace Sys2Proof.Machine

/-! ### Packed fields as numbers -/

theorem toNat_and_lowMask {w : Nat} {x m : BitVec w} (k : Nat) (hm : m.toNat = 2 ^ k - 1) :
    (x &&& m).toNat = x.toNat % 2 ^ k := by
  rw [BitVec.toNat_and, hm, Nat.and_two_pow_sub_one_eq_mod]

/-- A field placed above `k` lower bits adds to them. -/
theorem toNat_or_shiftLeft {w k : Nat} {lo hi : BitVec w} (hlo : lo.toNat < 2 ^ k) (hhi : 2 ^ k * hi.toNat < 2 ^ w) :
    (lo ||| hi <<< k).toNat = lo.toNat + 2 ^ k * hi.toNat := by
  rw [BitVec.toNat_or, BitVec.toNat_shiftLeft, Nat.shiftLeft_eq, Nat.mul_comm, Nat.mod_eq_of_lt hhi, Nat.or_comm,
    ← Nat.two_pow_add_eq_or_of_lt hlo, Nat.add_comm]

theorem extractLsb'_eq_of_toNat {w start len : Nat} {x : BitVec w} {y : BitVec len}
    (h : x.toNat / 2 ^ start % 2 ^ len = y.toNat) : x.extractLsb' start len = y := by
  apply BitVec.eq_of_toNat_eq
  rw [BitVec.extractLsb'_toNat, Nat.shiftRight_eq_div_pow, h]

/-- 30_encoding R92. -/
theorem lenVer_toNat (l : Nat) : (lenVer l).toNat = l % 1024 + 1024 := by
  have hlen : (BitVec.ofNat 16 l &&& 0x03FF#16).toNat = l % 1024 := by
    rw [toNat_and_lowMask 10 rfl, BitVec.toNat_ofNat]
    omega
  rw [lenVer, toNat_or_shiftLeft (by omega) (by decide), hlen]
  rfl

/-- 30_encoding R94. -/
theorem routingByte_toNat (type index : Byte) :
    (routingByte type index).toNat = type.toNat % 32 + 32 * (index.toNat % 8) := by
  have htype : (type &&& 0x1F#8).toNat = type.toNat % 32 := toNat_and_lowMask 5 rfl
  have hindex : (index &&& 0x07#8).toNat = index.toNat % 8 := toNat_and_lowMask 3 rfl
  rw [routingByte, toNat_or_shiftLeft (by omega) (by omega), htype, hindex]
  omega

/-- 30_encoding R96. -/
theorem packByte_toNat (pt ack enc : Byte) :
    (packByte pt ack enc).toNat = 128 * (pt.toNat % 2) + 32 * (ack.toNat % 4) + enc.toNat % 8 := by
  have hpt : (pt &&& 1#8).toNat = pt.toNat % 2 := toNat_and_lowMask 1 rfl
  have hack : (ack &&& 0x03#8).toNat = ack.toNat % 4 := toNat_and_lowMask 2 rfl
  have henc : (enc &&& 0x07#8).toNat = enc.toNat % 8 := toNat_and_lowMask 3 rfl
  have hlow : ((enc &&& 0x07#8) ||| (ack &&& 0x03#8) <<< 5).toNat = enc.toNat % 8 + 32 * (ack.toNat % 4) := by
    rw [toNat_or_shiftLeft (by omega) (by omega), henc, hack]
    omega
  have hpack : packByte pt ack enc = ((enc &&& 0x07#8) ||| (ack &&& 0x03#8) <<< 5) ||| (pt &&& 1#8) <<< 7 := by
    rw [packByte, BitVec.or_comm, BitVec.or_comm ((pt &&& 1#8) <<< 7), BitVec.or_assoc]
  rw [hpack, toNat_or_shiftLeft (by omega) (by omega), hlow, hpt]
  omega

/-! ### A built frame (42_builder R183) -/

section
variable (rom : Rom) (q : BuildFields) (pay : List Byte)

@[simp] theorem buildFrame_length : (buildFrame rom q pay).length = 13 + pay.length := by
  rw [buildFrame, List.length_append, frameBody_length]
  simp only [List.length_cons, List.length_nil]
  omega

/-- The bytes before the payload, and the trailer after it. -/
theorem buildFrame_eq : buildFrame rom q pay =
    sof :: loByte (lenVer (13 + pay.length)) :: hiByte (lenVer (13 + pay.length)) ::
      ck8 rom (headerBytes (13 + pay.length)) :: routingByte q.st q.si :: routingByte q.rt q.ri :: loByte q.seq ::
      hiByte q.seq :: packByte q.pt q.ack q.enc :: q.cls :: q.mid ::
      (pay ++ [loByte (ck16 rom (frameBody rom q pay)), hiByte (ck16 rom (frameBody rom q pay))]) := by
  rw [← frameLength_eq]
  rfl

@[simp] theorem lenVerOf_buildFrame : lenVerOf (buildFrame rom q pay) = lenVer (13 + pay.length) := by
  rw [buildFrame_eq]
  exact u16le_lo_hi _

@[simp] theorem seqOf_buildFrame : seqOf (buildFrame rom q pay) = q.seq := u16le_lo_hi _

theorem drop_buildFrame : (buildFrame rom q pay).drop 11 =
    pay ++ [loByte (ck16 rom (frameBody rom q pay)), hiByte (ck16 rom (frameBody rom q pay))] := rfl

@[simp] theorem payloadOf_buildFrame : payloadOf (buildFrame rom q pay) = pay := by
  have hlength : (buildFrame rom q pay).length - hdrLen - trlLen = pay.length := by
    rw [buildFrame_length, hdrLen, trlLen]
    omega
  rw [payloadOf, hlength, hdrLen, drop_buildFrame, List.take_left]

/-- The trailer is the checksum of all bytes before it. -/
theorem fckOf_buildFrame : fckOf (buildFrame rom q pay) = ck16 rom (checkedOf (buildFrame rom q pay)) := by
  have hlow : 13 + pay.length - 2 = (frameBody rom q pay).length := by rw [frameBody_length]; omega
  have hhigh : 13 + pay.length - 1 = (frameBody rom q pay).length + 1 := by rw [frameBody_length]; omega
  rw [checkedOf_buildFrame, fckOf, buildFrame_length, hlow, hhigh, buildFrame, byteAt_append_right _ _ _ le_rfl,
    byteAt_append_right _ _ _ (Nat.le_add_right _ 1), Nat.sub_self, Nat.add_sub_cancel_left]
  exact u16le_lo_hi _

end

/-- Settles O14: byte by byte, each packed byte by what it is as a number. -/
theorem builtFrameLayout : Obligations.BuiltFrameLayout := by
  intro rom q pay f l
  have hlenver : (byteAt f 1).toNat + 256 * (byteAt f 2).toNat = (lenVerOf f).toNat := (u16le_toNat _ _).symm
  have hseq : (byteAt f 6).toNat + 256 * (byteAt f 7).toNat = (seqOf f).toNat := (u16le_toNat _ _).symm
  have hpayload : (f.drop 11).take pay.length = pay := by rw [drop_buildFrame, List.take_left]
  have hfck : (byteAt f (l - 2)).toNat + 256 * (byteAt f (l - 1)).toNat = (ck16 rom (f.take (l - 2))).toNat := by
    have h := fckOf_buildFrame rom q pay
    rw [fckOf, checkedOf, buildFrame_length, trlLen] at h
    rw [← h, u16le_toNat]
  rw [lenVerOf_buildFrame, lenVer_toNat] at hlenver
  rw [seqOf_buildFrame] at hseq
  exact ⟨buildFrame_length rom q pay, rfl, hlenver, rfl, routingByte_toNat q.st q.si, routingByte_toNat q.rt q.ri,
    hseq, packByte_toNat q.pt q.ack q.enc, rfl, rfl, hpayload, hfck⟩

/-- The type bits of a routing byte (30_encoding R94). -/
theorem routingByte_type (type index : Byte) : (routingByte type index).extractLsb' 0 5 = type.setWidth 5 := by
  apply extractLsb'_eq_of_toNat
  rw [routingByte_toNat, BitVec.toNat_setWidth]
  omega

/-- The index bits of a routing byte (30_encoding R94). -/
theorem routingByte_index (type index : Byte) : (routingByte type index).extractLsb' 5 3 = index.setWidth 3 := by
  apply extractLsb'_eq_of_toNat
  rw [routingByte_toNat, BitVec.toNat_setWidth]
  omega

/-- The fields of byte 8, the reserved bits among them (30_encoding R96, R98). -/
theorem packByte_fields (pt ack enc : Byte) :
    (packByte pt ack enc).extractLsb' 7 1 = pt.setWidth 1 ∧ (packByte pt ack enc).extractLsb' 5 2 = ack.setWidth 2 ∧
    (packByte pt ack enc).extractLsb' 3 2 = 0#2 ∧ (packByte pt ack enc).extractLsb' 0 3 = enc.setWidth 3 := by
  refine ⟨?_, ?_, ?_, ?_⟩ <;> apply extractLsb'_eq_of_toNat <;> rw [packByte_toNat]
  · rw [BitVec.toNat_setWidth]; omega
  · rw [BitVec.toNat_setWidth]; omega
  · change _ = 0; omega
  · rw [BitVec.toNat_setWidth]; omega

/-- The two fields of LENVER (30_encoding R92, R98). -/
theorem lenVer_fields (l : Nat) :
    (lenVer l &&& 0x03FF#16).toNat = l % 1024 ∧ (lenVer l).extractLsb' 10 6 = 1#6 := by
  constructor
  · rw [toNat_and_lowMask 10 rfl, lenVer_toNat]
    omega
  · apply extractLsb'_eq_of_toNat
    rw [lenVer_toNat]
    change _ = 1
    omega

/-- Settles O19: each accessor reads the bits at which the builder packs its operand. -/
theorem frameFieldsReadBack : Obligations.FrameFieldsReadBack := by
  intro rom q pay f
  obtain ⟨hlen, hver⟩ := lenVer_fields (13 + pay.length)
  obtain ⟨hpt, hack, hreserved, henc⟩ := packByte_fields q.pt q.ack q.enc
  have hlenver : lenVerOf f = lenVer (13 + pay.length) := lenVerOf_buildFrame rom q pay
  rw [← hlenver] at hlen hver
  exact ⟨hlen, hver, routingByte_type q.st q.si, routingByte_index q.st q.si, routingByte_type q.rt q.ri,
    routingByte_index q.rt q.ri, seqOf_buildFrame rom q pay, hpt, hack, hreserved, henc, rfl, rfl,
    payloadOf_buildFrame rom q pay, fckOf_buildFrame rom q pay⟩

end Sys2Proof.Machine
end

section
/-! The two gates of a built frame (40_checksum R148): header checksum and trailer are taken from the frame's own bytes. -/

namespace Sys2Proof.Machine

section
variable (rom : Rom) (q : BuildFields) (pay : List Byte)

theorem take_three_buildFrame : (buildFrame rom q pay).take 3 = headerBytes (frameLength pay.length) := rfl

/-- 30_encoding R93. -/
theorem hckOf_buildFrame : hckOf (buildFrame rom q pay) = ck8 rom (headerBytes (frameLength pay.length)) := rfl

/-- 43_parser R229. -/
theorem frameOk_iff (f : List Byte) : frameOk rom f = true ↔ ck16 rom (checkedOf f) = fckOf f := beq_iff_eq

end

/-- Settles O18: the builder wrote at byte 3 and at the trailer the very values that the gates compute again. -/
theorem builtFramePassesBothGates : Obligations.BuiltFramePassesBothGates := by
  intro rom q pay
  constructor
  · rw [take_three_buildFrame, hckOf_buildFrame]
  · rw [frameOk_iff, fckOf_buildFrame]

end Sys2Proof.Machine
end

section
/-! The checksum kernels as folds of one table step (40_checksum R140, R141), and the commands CK8 and CK16 (R145, R146). -/

namespace Sys2Proof.Machine

/-! ### One byte of a fold -/

@[simp] theorem ck8_nil (rom : Rom) : ck8 rom [] = 0x77#8 := rfl
@[simp] theorem ck16_nil (rom : Rom) : ck16 rom [] = 0x3692#16 := rfl

theorem ck8_concat (rom : Rom) (bytes : List Byte) (b : Byte) :
    ck8 rom (bytes ++ [b]) = ck8Step rom (ck8 rom bytes) b := List.foldl_concat ..

theorem ck16_concat (rom : Rom) (bytes : List Byte) (b : Byte) :
    ck16 rom (bytes ++ [b]) = ck16Step rom (ck16 rom bytes) b := List.foldl_concat ..

/-- 40_checksum R140: the masked index of TABLE8 lies inside the table, and the entry there is the new state. -/
theorem table8_getElem?_eq_ck8Step (rom : Rom) (s b : Byte) :
    rom.table8[(s.toNat ^^^ b.toNat) % 256]? = some (ck8Step rom s b) := by
  have hindex : (s.toNat ^^^ b.toNat) % 256 = (s ^^^ b).toNat := by
    rw [← BitVec.toNat_xor, Nat.mod_eq_of_lt (s ^^^ b).isLt]
  rw [hindex]
  exact Vector.getElem?_eq_getElem (s ^^^ b).isLt

/-- 40_checksum R141: the low byte of state XOR input is the masked index of TABLE16. -/
theorem table16_getElem?_map_eq_ck16Step (rom : Rom) (s : Half) (b : Byte) :
    (rom.table16[(s.toNat ^^^ b.toNat) % 256]?).map (fun x => x ^^^ (s >>> 8)) = some (ck16Step rom s b) := by
  have hindex : (s.toNat ^^^ b.toNat) % 256 = ((s ^^^ b.setWidth 16).setWidth 8).toNat := by
    rw [BitVec.toNat_setWidth, BitVec.toNat_xor, BitVec.toNat_setWidth_of_le (by decide)]
  rw [hindex, Vector.getElem?_eq_getElem ((s ^^^ b.setWidth 16).setWidth 8).isLt]
  rfl

/-- Settles O5: the last byte of the list is one more step of the fold. -/
theorem ck8FoldsThroughTable8 : Obligations.Ck8FoldsThroughTable8 := by
  intro rom
  refine ⟨ck8_nil rom, fun bytes b => ?_⟩
  rw [ck8_concat, table8_getElem?_eq_ck8Step]

/-- Settles O6: the last byte of the list is one more step of the fold. -/
theorem ck16FoldsThroughTable16 : Obligations.Ck16FoldsThroughTable16 := by
  intro rom
  refine ⟨ck16_nil rom, fun bytes b => ?_⟩
  rw [ck16_concat, table16_getElem?_map_eq_ck16Step]

/-! ### The commands CK8 and CK16 -/

/-- 40_checksum R145, R146: a buffer that is not NULL, or no bytes to read. -/
theorem exec_checksum_of_not_nullWithLength (s : State) {buf : Ref} {n : Len} (h : ¬ nullWithLength buf n = true) :
    exec (.ck8 buf n) s = .next (s.respond (.status .ok (.byte (ck8 s.rom (s.readBuffer buf n.toNat))))) ∧
    exec (.ck16 buf n) s = .next (s.respond (.status .ok (.word (ck16 s.rom (s.readBuffer buf n.toNat))))) :=
  ⟨if_neg h, if_neg h⟩

theorem exec_checksum_of_nullWithLength (s : State) {buf : Ref} {n : Len} (h : nullWithLength buf n = true) :
    exec (.ck8 buf n) s = .next (s.respond (.status .invalidArgument .none)) ∧
    exec (.ck16 buf n) s = .next (s.respond (.status .invalidArgument .none)) :=
  ⟨if_pos h, if_pos h⟩

/-- Settles O7: the one test of both commands is `nullWithLength`, and a NULL buffer that passes it reads no bytes, whose
checksum is the seed. -/
theorem checksumCommandsAnswer : Obligations.ChecksumCommandsAnswer := by
  intro s a n
  have hsome : ¬ nullWithLength (some a) n = true := by simp [nullWithLength_iff]
  obtain ⟨hck8, hck16⟩ := exec_checksum_of_not_nullWithLength s hsome
  refine ⟨hck8, hck16, fun hzero => ?_, fun hpos => ?_⟩
  · have hnull : ¬ nullWithLength none n = true := by simp [nullWithLength_iff, hzero]
    exact exec_checksum_of_not_nullWithLength s hnull
  · exact exec_checksum_of_nullWithLength s ((nullWithLength_iff none n).mpr ⟨rfl, hpos⟩)

end Sys2Proof.Machine
end

section
/-! The payload decoder (41_decoder R152 to R157): each field as a number, and the bits of the payload that it reads. -/

namespace Sys2Proof.Machine

/-! ### Bits and bit fields -/

theorem getLsbD_eq_true_iff {w : Nat} (x : BitVec w) (i : Nat) : x.getLsbD i = true ↔ x.toNat / 2 ^ i % 2 = 1 := by
  rw [BitVec.getLsbD, Nat.testBit_eq_decide_div_mod_eq, decide_eq_true_iff]

/-- Values that agree under a mask agree on every bit that the mask keeps. -/
theorem getLsbD_eq_of_and_eq {w i : Nat} {x y m : BitVec w} (h : x &&& m = y &&& m) (hm : m.getLsbD i = true) :
    x.getLsbD i = y.getLsbD i := by
  simpa only [BitVec.getLsbD_and, hm, Bool.and_true] using congrArg (BitVec.getLsbD · i) h

/-- Values that agree under a mask agree on every bit field that the mask keeps whole. -/
theorem extractLsb'_eq_of_and_eq {w start len : Nat} {x y m : BitVec w} (h : x &&& m = y &&& m)
    (hm : m.extractLsb' start len = BitVec.allOnes len) : x.extractLsb' start len = y.extractLsb' start len := by
  simpa only [BitVec.extractLsb'_and, hm, BitVec.and_allOnes] using congrArg (BitVec.extractLsb' start len) h

/-! ### Buttons and flight mode (41_decoder R152 to R154) -/

/-- FlightMode(v) has the number v (10_state R34). -/
@[simp] theorem FlightMode.code_ofBits (v : BitVec 2) : (FlightMode.ofBits v).code = v := by
  revert v
  decide

/-- Settles O9: each Boolean is one bit of its byte, and the mode's number is the two low bits of byte 2. -/
theorem decodedButtonsAndMode : Obligations.DecodedButtonsAndMode := by
  intro p v d
  have hbit (k b : Nat) : (byteAt p k).getLsbD b = true ↔ v k b = 1 := getLsbD_eq_true_iff (byteAt p k) b
  have hmode : d.flightMode.code = (byteAt p 2).extractLsb' 0 2 := FlightMode.code_ofBits _
  refine ⟨hbit 0 4, hbit 0 5, hbit 0 6, hbit 1 0, hbit 1 3, hbit 1 4, hbit 1 5, hbit 1 6, hbit 1 7, hbit 2 2, hbit 2 3,
    hbit 2 4, ?_⟩
  rw [hmode, BitVec.extractLsb'_toNat, Nat.shiftRight_zero]

/-! ### Increment and analog fields (41_decoder R155, R156) -/

theorem incMagnitude_toNat (p : List Byte) : (incMagnitude p).toNat = (byteAt p 4).toNat / 2 % 32 := by
  rw [incMagnitude, BitVec.extractLsb'_toNat, Nat.shiftRight_eq_div_pow]

/-- A magnitude of five bits and its negation both fit the eight bits of the increment. -/
theorem toInt_setWidth_magnitude (m : BitVec 5) :
    (m.setWidth 8).toInt = m.toNat ∧ (-(m.setWidth 8)).toInt = -(m.toNat : Int) := by
  have hm := m.isLt
  have hpos : (m.setWidth 8).toInt = m.toNat := by
    rw [BitVec.toInt_eq_toNat_of_lt] <;> rw [BitVec.toNat_setWidth_of_le (by decide)]
    omega
  refine ⟨hpos, ?_⟩
  rw [BitVec.toInt_neg, hpos, Int.bmod_eq_of_le] <;> omega

/-- 41_decoder R155. -/
theorem incrementOf_toInt (p : List Byte) :
    (incrementOf p).toInt = if (incMagnitude p).toNat = 0 then 0
      else if (byteAt p 4).toNat / 64 % 2 = 1 then ((incMagnitude p).toNat : Int)
      else -((incMagnitude p).toNat : Int) := by
  have hzero : incMagnitude p = 0#5 ↔ (incMagnitude p).toNat = 0 := BitVec.toNat_eq
  have hsign : (byteAt p 4).getLsbD 6 = true ↔ (byteAt p 4).toNat / 64 % 2 = 1 := getLsbD_eq_true_iff _ 6
  obtain ⟨hpos, hneg⟩ := toInt_setWidth_magnitude (incMagnitude p)
  simp only [incrementOf, hzero, hsign, apply_ite BitVec.toInt, BitVec.toInt_zero, hpos, hneg]

/-- 41_decoder R156. -/
theorem analogAt_toInt (p : List Byte) (k : Nat) :
    (analogAt p k).toInt =
      Int.bmod (((byteAt p k).toNat + 256 * (byteAt p (k + 1)).toNat : Nat) - 0x0400) 65536 := by
  have hcentre : centre.toInt = 0x0400 := by decide
  rw [analogAt, BitVec.toInt_sub, hcentre, BitVec.toInt_eq_toNat_bmod, u16le_toNat, Int.bmod_sub_bmod]

/-- Settles O10: the increment and the analog fields as integers, one field of `decodePayload` each. -/
theorem decodedIncrementAndAnalogs : Obligations.DecodedIncrementAndAnalogs := by
  intro p m u d
  refine ⟨?_, analogAt_toInt p 5, analogAt_toInt p 7, analogAt_toInt p 9, analogAt_toInt p 11, analogAt_toInt p 13,
    analogAt_toInt p 15⟩
  have hinc := incrementOf_toInt p
  rwa [incMagnitude_toNat] at hinc

/-! ### The bits that are read (41_decoder R157) -/

section
variable {p q : List Byte}

/-- The increment reads bits 6:1 of byte 4. -/
theorem incrementOf_congr (h : byteAt p 4 &&& 0x7E#8 = byteAt q 4 &&& 0x7E#8) : incrementOf p = incrementOf q := by
  have hmagnitude : incMagnitude p = incMagnitude q := extractLsb'_eq_of_and_eq h rfl
  have hsign : (byteAt p 4).getLsbD 6 = (byteAt q 4).getLsbD 6 := getLsbD_eq_of_and_eq h rfl
  rw [incrementOf, incrementOf, hmagnitude, hsign]

theorem analogAt_congr {k : Nat} (hlo : byteAt p k = byteAt q k) (hhi : byteAt p (k + 1) = byteAt q (k + 1)) :
    analogAt p k = analogAt q k := by
  rw [analogAt, analogAt, hlo, hhi]

end

/-- Settles O11: every field reads bits that the masks keep, or two of the bytes 5 to 16. -/
theorem reservedPayloadBitsHaveNoEffect : Obligations.ReservedPayloadBitsHaveNoEffect := by
  intro p q h0 h1 h2 h4 hanalog
  have hbit0 {i : Nat} : (0x70#8).getLsbD i = true → (byteAt p 0).getLsbD i = (byteAt q 0).getLsbD i :=
    getLsbD_eq_of_and_eq h0
  have hbit1 {i : Nat} : (0xF9#8).getLsbD i = true → (byteAt p 1).getLsbD i = (byteAt q 1).getLsbD i :=
    getLsbD_eq_of_and_eq h1
  have hbit2 {i : Nat} : (0x1F#8).getLsbD i = true → (byteAt p 2).getLsbD i = (byteAt q 2).getLsbD i :=
    getLsbD_eq_of_and_eq h2
  have hmode : (byteAt p 2).extractLsb' 0 2 = (byteAt q 2).extractLsb' 0 2 := extractLsb'_eq_of_and_eq h2 rfl
  have hpair {k : Nat} (hk : 5 ≤ k ∧ k + 1 ≤ 16) : analogAt p k = analogAt q k :=
    analogAt_congr (hanalog k (by omega) (by omega)) (hanalog (k + 1) (by omega) (by omega))
  rw [decodePayload, decodePayload, Snapshot.mk.injEq]
  exact ⟨hbit0 rfl, hbit0 rfl, hbit0 rfl, hbit1 rfl, hbit2 rfl, hbit2 rfl, hbit2 rfl, hbit1 rfl, hbit1 rfl, hbit1 rfl,
    hbit1 rfl, hbit1 rfl, congrArg FlightMode.ofBits hmode, hpair (by decide), hpair (by decide), hpair (by decide),
    hpair (by decide), hpair (by decide), hpair (by decide), incrementOf_congr h4⟩

/-! ### The command DECODE (41_decoder R150, R151) -/

/-- 41_decoder R151: the condition of SHORT_PAYLOAD. -/
theorem shortPayload_iff (buf : Ref) (n : Len) :
    (buf.isNone || decide (n.toNat < pushLen)) = true ↔ buf = none ∨ n.toNat < 17 := by
  rw [Bool.or_eq_true, Option.isNone_iff_eq_none, decide_eq_true_iff, pushLen]

theorem exec_decode_of_short (s : State) {buf : Ref} {n : Len} (h : buf = none ∨ n.toNat < 17) :
    exec (.decode buf n) s = .next (s.respond (.status .shortPayload .none)) :=
  if_pos ((shortPayload_iff buf n).mpr h)

/-- 41_decoder R150. -/
theorem exec_decode_of_le (s : State) (a : Addr) {n : Len} (h : 17 ≤ n.toNat) :
    exec (.decode (some a) n) s =
      .next (s.respond (.status .ok (.snapshot (decodePayload (Memory.readBytes s.mem a.toNat 17))))) :=
  if_neg (by rw [shortPayload_iff]; simpa using h)

/-- Settles O8: the one test of DECODE is that of SHORT_PAYLOAD, and a buffer that passes it is read up to byte 16. -/
theorem decodeAnswers : Obligations.DecodeAnswers := by
  intro s buf n
  refine ⟨fun a hbuf hlen => ?_, exec_decode_of_short s⟩
  subst hbuf
  exact exec_decode_of_le s a hlen

end Sys2Proof.Machine
end

section
/-! The command BUILD (42_builder R180 to R188): what it answers past the overlap check, and the bytes it stores. -/

namespace Sys2Proof.Machine

/-! ### Validation (42_builder R181) -/

theorem buildInvalid_eq_false_iff {o : Addr} {cap : Len} {pay : Ref} {n : Len} :
    buildInvalid (some o) cap pay n = false ↔
      (pay = none → n.toNat = 0) ∧ 13 + n.toNat ≤ 1400 ∧ 13 + n.toNat ≤ cap.toNat := by
  rw [Bool.eq_false_iff, Ne, buildInvalid_iff]
  simp

theorem State.readBuffer_length (s : State) {buf : Ref} {n : Nat} (h : buf = none → n = 0) :
    (s.readBuffer buf n).length = n := by
  cases buf with
  | none => exact (h rfl).symm
  | some a => exact Memory.readBytes_length s.mem a.toNat n

section
variable {out pay : Ref} {cap n : Len}

/-- 42_builder R185. -/
theorem exec_build_of_invalid (hno : overlaps out cap pay n = false) (hinvalid : buildInvalid out cap pay n = true)
    (q : BuildFields) (s : State) :
    exec (.build out cap q.st q.si q.rt q.ri q.seq q.pt q.ack q.enc q.cls q.mid pay n) s =
      .next ((s.scribble out cap).respond (.status .invalidArgument .none)) := by
  simp only [exec, execBuild, hno, hinvalid, State.raise_eq, if_true, Bool.false_eq_true, if_false]

/-- 42_builder R183. -/
theorem exec_build_of_valid (hno : overlaps out cap pay n = false) (hvalid : buildInvalid out cap pay n = false)
    (q : BuildFields) (s : State) :
    exec (.build out cap q.st q.si q.rt q.ri q.seq q.pt q.ack q.enc q.cls q.mid pay n) s =
      .next ((s.writeFrame out (buildFrame s.rom q (s.readBuffer pay n.toNat))).respond
        (.status .ok (.length (BitVec.ofNat 32 (13 + n.toNat))))) := by
  simp only [exec, execBuild, hno, hvalid, State.answer_eq, frameLength_eq, Bool.false_eq_true, if_false]

end

/-- Settles O15: a valid BUILD answers OK, and any other answers INVALID_ARGUMENT. -/
theorem buildRejectsExactlyInvalidArguments : Obligations.BuildRejectsExactlyInvalidArguments := by
  intro s out cap q pay n hno
  rw [← buildInvalid_iff]
  constructor
  · rintro ⟨t, hexec, hresponse⟩
    by_contra hvalid
    rw [exec_build_of_valid hno (Bool.eq_false_iff.mpr hvalid)] at hexec
    cases hexec
    simp at hresponse
  · intro hinvalid
    exact ⟨_, exec_build_of_invalid hno hinvalid q s, by simp⟩

/-! ### What BUILD writes -/

/-- Settles O16: the free bytes go to out[0..cap-1], and nowhere if out is NULL. -/
theorem failedBuildTouchesOnlyItsOutput : Obligations.FailedBuildTouchesOnlyItsOutput := by
  intro s out cap q pay n hno hinvalid
  rw [exec_build_of_invalid hno hinvalid]
  cases out with
  | none => exact ⟨s.mem, s.draws, rfl, fun _ => rfl, nofun⟩
  | some o =>
    refine ⟨Memory.writeBytes s.mem o.toNat (s.freeBytes cap.toNat), s.draws + cap.toNat, rfl, nofun, ?_⟩
    intro o' x hout hx
    cases hout
    exact Memory.read_writeBytes_outside _ _ _ _ (by simpa [State.freeBytes] using hx)

/-- Settles O12: without an overlap a BUILD within the bounds is valid; a NULL payload overlaps nothing and gives no
bytes. -/
theorem buildWritesTheFrame : Obligations.BuildWritesTheFrame := by
  intro s o cap q n hmax hcap
  constructor
  · intro a hdisjoint
    have hno : overlaps (some o) cap (some a) n = false := by
      rw [Bool.eq_false_iff, Ne, overlaps_iff]
      omega
    exact exec_build_of_valid hno (buildInvalid_eq_false_iff.mpr ⟨nofun, hmax, hcap⟩) q s
  · intro hzero
    have hno : overlaps (some o) cap none n = false := rfl
    have hexec := exec_build_of_valid hno (buildInvalid_eq_false_iff.mpr ⟨fun _ => hzero, hmax, hcap⟩) q s
    rwa [hzero] at hexec

/-- Settles O13: the write is of the frame's own length, which its payload fixes. -/
theorem buildStoresOnlyTheFrame : Obligations.BuildStoresOnlyTheFrame := by
  intro s t o cap q pay n hw hno hvalid hexec
  obtain ⟨hpay, -, -⟩ := buildInvalid_eq_false_iff.mp hvalid
  rw [exec_build_of_valid hno hvalid] at hexec
  cases hexec
  have hlength : (buildFrame s.rom q (s.readBuffer pay n.toNat)).length = 13 + n.toNat := by
    rw [buildFrame_length, s.readBuffer_length hpay]
  constructor
  · intro k hk
    rw [byteAt_of_lt _ k (by omega)]
    exact Memory.read_writeBytes_inside _ s.mem o.toNat k hw (by omega)
  · intro x hx
    exact Memory.read_writeBytes_outside _ s.mem o.toNat x (by rwa [hlength])

end Sys2Proof.Machine
end

section
/-! A built frame's header at the front of the stream (42_builder R184, 43_parser R224 to R226). -/

namespace Sys2Proof.Machine

/-- 43_parser R224 to R226: past the header gate the length gate decides. -/
theorem Slot.scanStep_of_headerOk {rom : Rom} {p : Slot} (hscan : p.scan = .seekingStart) (hcount : 4 ≤ p.count.toNat)
    (hsof : p.ringAt 0 = sof) (hok : headerOk rom p = true) :
    p.scanStep rom = if lengthOk (lenOf p.header) = true then some (p.latch (lenOf p.header), none)
      else some (p.discard 1, some (.dropped .lenRange)) := by
  have hempty : ¬ p.count.toNat = 0 := by omega
  have hshort : ¬ p.count.toNat < 4 := by omega
  by_cases hlen : lengthOk (lenOf p.header) = true <;>
    simp [Slot.scanStep, Slot.select, Slot.perform, hscan, hempty, hsof, hshort, hok, hlen]

/-- 30_encoding R92: the length field of a built frame. -/
theorem lenOf_buildFrame (rom : Rom) (q : BuildFields) (pay : List Byte) :
    lenOf (buildFrame rom q pay) = (13 + pay.length) % 1024 := by
  rw [lenOf, lenVerOf_buildFrame]
  exact (lenVer_fields _).1

/-- The header of a built frame passes the header gate (40_checksum R148), so the length gate decides. -/
theorem Slot.scanStep_of_built_header {rom : Rom} {p : Slot} {q : BuildFields} {pay : List Byte}
    (hscan : p.scan = .seekingStart) (hcount : 4 ≤ p.count.toNat)
    (hheader : p.header = (buildFrame rom q pay).take 4) :
    p.scanStep rom =
      if lengthOk ((13 + pay.length) % 1024) = true then some (p.latch ((13 + pay.length) % 1024), none)
      else some (p.discard 1, some (.dropped .lenRange)) := by
  have hsof : p.ringAt 0 = sof := by
    rw [← Slot.byteAt_copy p 4 0 (by omega), ← Slot.header, hheader]
    rfl
  have hok : headerOk rom p = true := by
    rw [headerOk, hheader, beq_iff_eq]
    rfl
  have hlen : lenOf p.header = (13 + pay.length) % 1024 := by
    rw [hheader, ← lenOf_buildFrame rom q pay]
    rfl
  rw [Slot.scanStep_of_headerOk hscan hcount hsof hok, hlen]

/-- Settles O20: from 1024 bytes on the length field is the length less 1024, which up to 1036 bytes is below 13. -/
theorem longFramesCarryATruncatedLength : Obligations.LongFramesCarryATruncatedLength := by
  intro rom q pay hlong hmax
  have hmod : (13 + pay.length) % 1024 = 13 + pay.length - 1024 := by omega
  refine ⟨by rw [lenOf_buildFrame, hmod], fun p hscan hcount hheader htop => ?_⟩
  rw [Slot.scanStep_of_built_header hscan hcount hheader, hmod, if_neg]
  rw [lengthOk_iff]
  omega

end Sys2Proof.Machine
end

section
/-! Both feed modes give one result (43_parser R253): with room, a scan may be put off until more bytes are pushed. -/

namespace Sys2Proof.Machine

/-- With room, the steps of a scan before a push are steps of the scan after it. -/
theorem Slot.runScan_push (rom : Rom) (b : Byte) {p : Slot} (hb : p.BoundsOk) (hroom : p.count.toNat < 4096) :
    (p.push b).runScan rom =
      ((((p.runScan rom).1.push b).runScan rom).1,
       (p.runScan rom).2 ++ (((p.runScan rom).1.push b).runScan rom).2) := by
  induction hm : p.scanMeasure using Nat.strong_induction_on generalizing p with
  | _ m ih =>
    cases hs : p.scanStep rom with
    | none => rw [Slot.runScan_of_none rom p hs, List.nil_append]
    | some r =>
      obtain ⟨q, l⟩ := r
      obtain ⟨hqb, hless⟩ := Slot.scanStep_bounds rom p q l hb hs
      have hqroom := Slot.scanStep_count_le rom p q l hs
      rw [Slot.runScan_of_some rom p q l hb hs,
        Slot.runScan_of_some rom _ _ l (hb.push b) (Slot.scanStep_push rom p q l b hroom hs),
        ih _ (hm ▸ hless) hqb (by omega) rfl, List.append_assoc]

/-- With room for all bytes, a scan and then a PER_BYTE FEED do what the pushes and then one scan do. -/
theorem Slot.runScan_pushAll (rom : Rom) (bs : List Byte) {p : Slot} (hb : p.BoundsOk)
    (hroom : p.count.toNat + bs.length ≤ 4096) :
    (p.pushAll bs).runScan rom =
      (((p.runScan rom).1.feedPerByte rom bs).1, (p.runScan rom).2 ++ ((p.runScan rom).1.feedPerByte rom bs).2) := by
  induction bs generalizing p with
  | nil => exact Prod.ext rfl (List.append_nil _).symm
  | cons b bs ih =>
    rw [List.length_cons] at hroom
    have hlt : p.count.toNat < 4096 := by omega
    have hpush := Slot.push_count_of_lt p b hlt
    calc (p.pushAll (b :: bs)).runScan rom = ((p.push b).pushAll bs).runScan rom := rfl
      _ = _ := ih (hb.push b) (by omega)
      _ = _ := by rw [Slot.runScan_push rom b hb hlt, Slot.feedPerByte, List.append_assoc]

/-- 43_parser R250: a quiescent slot awaits. -/
theorem Slot.Quiescent.scanStep_eq_none {p : Slot} (h : p.Quiescent) (rom : Rom) : p.scanStep rom = none := by
  rw [Slot.scanStep_none]
  rcases h with ⟨hseek, hempty⟩ | ⟨hseek, hsof, -, hshort⟩ | ⟨hacc, hless, -⟩
  · exact .inl ⟨hseek, .inl hempty⟩
  · exact .inl ⟨hseek, .inr ⟨hsof, by omega⟩⟩
  · exact .inr ⟨hacc, hless⟩

/-- 43_parser R253: with room for all bytes, the feed mode makes no difference to a quiescent slot. -/
theorem Slot.feed_eq_runScan_pushAll (rom : Rom) (mode : FeedMode) {p : Slot} {bs : List Byte} (hb : p.BoundsOk)
    (hq : p.Quiescent) (hroom : p.count.toNat + bs.length ≤ 4096) :
    p.feed rom mode bs = (p.pushAll bs).runScan rom := by
  cases mode with
  | bulk => rfl
  | perByte =>
    rw [Slot.runScan_pushAll rom bs hb hroom, Slot.runScan_of_none rom p (hq.scanStep_eq_none rom), List.nil_append]
    rfl

/-- 43_parser R215: pushes with room append to the contents. -/
theorem Slot.contents_pushAll_of_room {p : Slot} {bs : List Byte} (hw : Memory.wf p.ring = true)
    (hroom : p.count.toNat + bs.length ≤ 4096) : (p.pushAll bs).contents = p.contents ++ bs := by
  induction bs generalizing p with
  | nil => exact (List.append_nil _).symm
  | cons b bs ih =>
    rw [List.length_cons] at hroom
    have hlt : p.count.toNat < 4096 := by omega
    have hpush := Slot.push_count_of_lt p b hlt
    calc (p.pushAll (b :: bs)).contents = ((p.push b).pushAll bs).contents := rfl
      _ = (p.push b).contents ++ bs := ih (Memory.wf_write _ _ _ hw) (by omega)
      _ = p.contents ++ b :: bs := by rw [Slot.contents_push_of_lt b hw hlt, List.append_assoc]; rfl

theorem Slot.pushAll_scan (p : Slot) (bs : List Byte) : (p.pushAll bs).scan = p.scan :=
  List.foldlRecOn (motive := fun q => q.scan = p.scan) bs Slot.push rfl fun _ hq b _ => (Slot.push_scan _ b).trans hq

end Sys2Proof.Machine
end

section
/-! The round trip (42_builder R190): BUILD, then a FEED of the frame to a slot with an empty ring. -/

namespace Sys2Proof.Machine

/-! ### What the scanner says of a built frame -/

theorem frameKind_eq_rcPush_iff (id cls : Byte) :
    frameKind (u16le id cls) = .rcPush ↔ cls = 0x06#8 ∧ id = 0x05#8 := by
  have hkey : u16le id cls = 0x0605#16 ↔ cls = 0x06#8 ∧ id = 0x05#8 := by
    rw [← BitVec.toNat_inj, u16le_toNat, ← BitVec.toNat_inj, ← BitVec.toNat_inj]
    have := id.isLt
    simp only [BitVec.toNat_ofNat]
    omega
  rw [← hkey, frameKind]
  split
  · next h => exact iff_of_true rfl h
  · next h => refine iff_of_false ?_ h; split_ifs <;> nofun

/-- 43_parser R230 to R232. -/
theorem dispatchLabel_snapshot? (f : List Byte) :
    (dispatchLabel f).snapshot? =
      if frameKind (keyOf f) = .rcPush ∧ 17 ≤ (payloadOf f).length then some (decodePayload (payloadOf f))
      else none := by
  cases hkind : frameKind (keyOf f) with
  | rcPush =>
    have hlabel : dispatchLabel f = rcPushLabel f := by rw [dispatchLabel, hkind]
    rw [hlabel, rcPushLabel, pushLen]
    split
    · next hshort => rw [if_neg (by omega)]; rfl
    · next hlong => rw [if_pos ⟨rfl, by omega⟩]; rfl
  | enable | channelRequest | other => simp [dispatchLabel, hkind, notPushLabel, Label.snapshot?]

/-- The snapshots of a frame of `q` with the payload `pay`: what the round trip emits (42_builder R190). -/
def BuildFields.snapshots (q : BuildFields) (pay : List Byte) : List Snapshot :=
  if q.cls = 0x06#8 ∧ q.mid = 0x05#8 ∧ 17 ≤ pay.length then [decodePayload pay] else []

/-- A built frame passes the frame gate (40_checksum R148), so its key and its payload decide. -/
theorem snapshotsOf_classify_buildFrame (rom : Rom) (q : BuildFields) (pay : List Byte) :
    snapshotsOf [classify rom (buildFrame rom q pay)] = q.snapshots pay := by
  have hkind : frameKind (keyOf (buildFrame rom q pay)) = .rcPush ↔ q.cls = 0x06#8 ∧ q.mid = 0x05#8 :=
    frameKind_eq_rcPush_iff q.mid q.cls
  have hsnapshot : (classify rom (buildFrame rom q pay)).snapshot? =
      if q.cls = 0x06#8 ∧ q.mid = 0x05#8 ∧ 17 ≤ pay.length then some (decodePayload pay) else none := by
    obtain ⟨-, hok⟩ := builtFramePassesBothGates rom q pay
    simp only [classify_of_frameOk hok, dispatchLabel_snapshot?, payloadOf_buildFrame, hkind, and_assoc]
  rw [snapshotsOf, List.filterMap_cons, hsnapshot, BuildFields.snapshots]
  split_ifs <;> rfl

/-! ### FEED of a built frame -/

/-- 43_parser R226: a ring that holds a built frame of at most 1023 bytes latches its length. -/
theorem Slot.scanStep_of_built_contents {rom : Rom} {p : Slot} {q : BuildFields} {pay : List Byte}
    (hscan : p.scan = .seekingStart) (hcontents : p.contents = buildFrame rom q pay) (hmax : 13 + pay.length ≤ 1023) :
    p.scanStep rom = some (p.latch (13 + pay.length), none) := by
  have hcount : p.count.toNat = 13 + pay.length := by rw [← p.contents_length, hcontents, buildFrame_length]
  have hheader : p.header = (buildFrame rom q pay).take 4 := by
    rw [Slot.header, Slot.copy_eq_take_contents (by omega), hcontents]
  have hlen : lengthOk (13 + pay.length) = true := (lengthOk_iff _).mpr (by omega)
  rw [Slot.scanStep_of_built_header hscan (by omega) hheader, Nat.mod_eq_of_lt (by omega), if_pos hlen]

/-- 43_parser R228: a candidate that is all that is buffered is taken and leaves the ring empty. -/
theorem Slot.scanStep_of_whole_candidate (rom : Rom) {p : Slot} (hscan : p.scan = .accumulatingFrame)
    (hwhole : p.expLen.toNat = p.count.toNat) :
    ∃ r, p.scanStep rom = some (r, some (classify rom p.contents)) ∧ r.scan = .seekingStart ∧ r.count = 0#13 ∧
      r.expLen = p.expLen := by
  refine ⟨(p.discard p.expLen.toNat).seek, ?_, rfl, by simp [hwhole], rfl⟩
  simp [Slot.scanStep, Slot.select, Slot.perform, hscan, hwhole, Slot.contents]

/-- The scan of a ring that holds a built frame and nothing else: S_LATCH, A_TAKE, S_EMPTY. -/
theorem Slot.runScan_of_built_contents {rom : Rom} {p : Slot} {q : BuildFields} {pay : List Byte}
    (hscan : p.scan = .seekingStart) (hcontents : p.contents = buildFrame rom q pay) (hmax : 13 + pay.length ≤ 1023) :
    ∃ r, p.runScan rom = (r, [classify rom (buildFrame rom q pay)]) ∧ r.scan = .seekingStart ∧ r.count = 0#13 ∧
      r.expLen.toNat = 13 + pay.length := by
  have hcount : p.count.toNat = 13 + pay.length := by rw [← p.contents_length, hcontents, buildFrame_length]
  have hbounds : p.BoundsOk := ⟨by omega, by simp [hscan]⟩
  have hlatch := Slot.scanStep_of_built_contents hscan hcontents hmax
  obtain ⟨hlatched, -⟩ := Slot.scanStep_bounds rom p _ _ hbounds hlatch
  have hexp : (p.latch (13 + pay.length)).expLen.toNat = 13 + pay.length := by
    rw [Slot.latch_expLen, BitVec.toNat_ofNat]
    omega
  obtain ⟨r, htake, hseek, hempty, hsame⟩ :=
    Slot.scanStep_of_whole_candidate rom (p := p.latch (13 + pay.length)) rfl (hexp.trans hcount.symm)
  have hawait : r.scanStep rom = none := (Slot.scanStep_none rom r).mpr (.inl ⟨hseek, .inl (by rw [hempty]; rfl)⟩)
  refine ⟨r, ?_, hseek, hempty, by rw [hsame, hexp]⟩
  rw [Slot.runScan_of_some rom p _ _ hbounds hlatch, Slot.runScan_of_some rom _ _ _ hlatched htake,
    Slot.runScan_of_none rom r hawait, ← hcontents]
  rfl

/-- 42_builder R190: a seeking slot with an empty ring consumes a built frame of at most 1023 bytes whole. -/
theorem Slot.feed_buildFrame (rom : Rom) (mode : FeedMode) {p : Slot} (q : BuildFields) {pay : List Byte}
    (hscan : p.scan = .seekingStart) (hcount : p.count = 0#13) (hw : Memory.wf p.ring = true)
    (hmax : 13 + pay.length ≤ 1023) :
    ∃ r, p.feed rom mode (buildFrame rom q pay) = (r, [classify rom (buildFrame rom q pay)]) ∧
      r.scan = .seekingStart ∧ r.count = 0#13 ∧ r.expLen.toNat = 13 + pay.length := by
  have hempty : p.count.toNat = 0 := by rw [hcount]; rfl
  have hroom : p.count.toNat + (buildFrame rom q pay).length ≤ 4096 := by rw [buildFrame_length]; omega
  have hcontents : (p.pushAll (buildFrame rom q pay)).contents = buildFrame rom q pay := by
    have hnil : p.contents = [] := List.length_eq_zero_iff.mp (p.contents_length.trans hempty)
    rw [Slot.contents_pushAll_of_room hw hroom, hnil, List.nil_append]
  rw [Slot.feed_eq_runScan_pushAll rom mode ⟨by omega, by simp [hscan]⟩ (.inl ⟨hscan, hempty⟩) hroom]
  exact Slot.runScan_of_built_contents ((p.pushAll_scan _).trans hscan) hcontents hmax

/-- 43_parser R212. -/
theorem exec_feed_of_live {s : State} {h : Nat} {p : Slot} (hp : s.slot? h = some p) (hlive : p.live = true) (a : Addr)
    (n : Len) : exec (.feed h (some a) n) s = .next (s.feedSlot h p (Memory.readBytes s.mem a.toNat n.toNat)) := by
  have hne : h ≠ 0 := State.ne_zero_of_slot?_eq_some hp
  simp only [exec, execFeed, hne, (State.liveSlot?_eq_some s h p).mpr ⟨hp, hlive⟩, reduceCtorEq, or_self, if_false]
  rfl

/-- A FEED of a built frame to a seeking slot with an empty ring delivers the frame's snapshots. -/
theorem State.feedSlot_buildFrame {s : State} {h : Nat} {p : Slot} (q : BuildFields) {pay : List Byte}
    (hp : s.slot? h = some p) (hscan : p.scan = .seekingStart) (hcount : p.count = 0#13)
    (hw : Memory.wf p.ring = true) (hmax : 13 + pay.length ≤ 1023) :
    ∃ t r, s.feedSlot h p (buildFrame s.rom q pay) = t ∧
      t.events = s.events ++ (q.snapshots pay).map (p.event h) ∧
      t.responses = s.responses ++ [.delivered (BitVec.ofNat 32 (q.snapshots pay).length)] ∧
      t.slot? h = some r ∧ r.scan = .seekingStart ∧ r.count = 0#13 ∧ r.expLen.toNat = 13 + pay.length := by
  obtain ⟨r, hfeed, hseek, hempty, hexp⟩ := Slot.feed_buildFrame s.rom s.feedMode q hscan hcount hw hmax
  refine ⟨_, r, rfl, ?_, ?_, ?_, hseek, hempty, hexp⟩
  · rw [State.feedSlot_events, hfeed, snapshotsOf_classify_buildFrame]
  · rw [State.feedSlot_responses, hfeed, snapshotsOf_classify_buildFrame]
  · rw [State.feedSlot_slot?, State.slot?_updateSlot_self, hp, hfeed]
    rfl

/-- Settles O21: BUILD stores the frame at `out`, FEED reads the same bytes back, and the scanner takes them whole;
what it says of them is the event that BUILD's operands call for. -/
theorem builtFrameRoundTrips : Obligations.BuiltFrameRoundTrips := by
  intro s o cap q pay n h p hw hno hvalid hmax hp hlive hscan hcount hring
  obtain ⟨hpay, -, -⟩ := buildInvalid_eq_false_iff.mp hvalid
  have hlength := s.readBuffer_length hpay
  have hbuild := exec_build_of_valid hno hvalid q s
  generalize s.readBuffer pay n.toNat = bytes at hlength hbuild ⊢
  generalize hs1 : (s.writeFrame (some o) (buildFrame s.rom q bytes)).respond _ = s1 at hbuild
  have hback : Memory.readBytes s1.mem o.toNat (BitVec.ofNat 32 (13 + n.toNat)).toNat = buildFrame s1.rom q bytes := by
    have hsize : (BitVec.ofNat 32 (13 + n.toNat)).toNat = (buildFrame s.rom q bytes).length := by
      rw [buildFrame_length, hlength, BitVec.toNat_ofNat]
      omega
    rw [hsize, ← hs1]
    exact Memory.readBytes_writeBytes _ s.mem o.toNat hw
  have hp1 : s1.slot? h = some p := by simpa [← hs1] using hp
  obtain ⟨t, r, hfeed, hevents, hresponses, hr⟩ :=
    State.feedSlot_buildFrame q hp1 hscan hcount hring (by rwa [hlength] : 13 + bytes.length ≤ 1023)
  refine ⟨s1, t, r, hbuild, ?_, ?_, ?_, hlength ▸ hr⟩
  · rw [exec_feed_of_live hp1 hlive, hback, hfeed]
  · rw [hevents, ← hs1, BuildFields.snapshots, hlength]
    split_ifs <;> rfl
  · rw [hresponses, ← hs1, State.respond_responses, State.writeFrame_responses, List.append_assoc,
      BuildFields.snapshots, hlength]
    split_ifs <;> rfl

end Sys2Proof.Machine
end


section
/-! The scanner's classification of a candidate (43_parser R229 to R232), and the dispatch rows that share its meaning. -/

namespace Sys2Proof.Machine

/-! ### The payload of a candidate (30_encoding R97) -/

theorem payloadOf_length (f : List Byte) : (payloadOf f).length = f.length - 13 := by
  simp only [payloadOf, hdrLen, trlLen, List.length_take, List.length_drop]
  omega

theorem byteAt_payloadOf {f : List Byte} {k : Nat} (hk : k < f.length - 13) :
    byteAt (payloadOf f) k = byteAt f (11 + k) := by
  rw [payloadOf, byteAt_take _ _ _ (by simp only [hdrLen, trlLen]; omega), byteAt_drop, hdrLen]

/-- 41_decoder R150: the snapshot is that of the first 17 bytes. -/
theorem decodePayload_congr {p q : List Byte} (h : ∀ k, k ≤ 16 → byteAt p k = byteAt q k) :
    decodePayload p = decodePayload q :=
  reservedPayloadBitsHaveNoEffect p q (by rw [h 0 (by omega)]) (by rw [h 1 (by omega)]) (by rw [h 2 (by omega)])
    (by rw [h 4 (by omega)]) fun k _ hk => h k hk

/-! ### The dispatch on the key (30_encoding R112) -/

/-- 43_parser R231, R232. -/
theorem rcPushLabel_eq (f : List Byte) : rcPushLabel f =
    if f.length < 30 then .dropped .shortPush else .accepted (decodePayload ((f.drop 11).take 17)) := by
  rw [rcPushLabel, payloadOf_length, pushLen]
  by_cases hshort : f.length < 30
  · rw [if_pos (by omega), if_pos hshort]
  · rw [if_neg (by omega), if_neg hshort]
    congr 1
    refine decodePayload_congr fun k hk => ?_
    rw [byteAt_payloadOf (by omega), byteAt_take _ _ _ (by omega), byteAt_drop]

/-- 43_parser R230 to R232: only a push frame is not dropped NOT_PUSH. -/
theorem dispatchLabel_eq (f : List Byte) : dispatchLabel f =
    if byteAt f 9 = 0x06#8 ∧ byteAt f 10 = 0x05#8 then rcPushLabel f else .dropped .notPush := by
  have hkind : frameKind (keyOf f) = .rcPush ↔ byteAt f 9 = 0x06#8 ∧ byteAt f 10 = 0x05#8 :=
    frameKind_eq_rcPush_iff (idOf f) (classOf f)
  simp only [← hkind, dispatchLabel]
  cases frameKind (keyOf f) <;> rfl

/-! ### The frame gate (43_parser R229) -/

theorem frameOk_iff_toNat (rom : Rom) (f : List Byte) : frameOk rom f = true ↔
    (ck16 rom (f.take (f.length - 2))).toNat =
      (byteAt f (f.length - 2)).toNat + 256 * (byteAt f (f.length - 1)).toNat := by
  rw [frameOk_iff, ← BitVec.toNat_inj, fckOf, u16le_toNat]
  rfl

theorem classify_of_not_frameOk {rom : Rom} {f : List Byte} (h : ¬ frameOk rom f = true) :
    classify rom f = .dropped .frameCk :=
  if_neg h

/-- Settles O35: the frame gate comes first, then the key, then the length. -/
theorem classificationOfCandidates : Obligations.ClassificationOfCandidates := by
  intro rom f _
  dsimp only
  rw [← frameOk_iff_toNat]
  refine ⟨classify_of_not_frameOk, fun hok hpush => ?_, fun hok hpush hshort => ?_, fun hok hpush hlong => ?_⟩
  · rw [classify_of_frameOk hok, dispatchLabel_eq, if_neg hpush]
  · rw [classify_of_frameOk hok, dispatchLabel_eq, if_pos hpush, rcPushLabel_eq, if_pos hshort]
  · rw [classify_of_frameOk hok, dispatchLabel_eq, if_pos hpush, rcPushLabel_eq, if_neg (by omega)]

/-- Settles O36: past the frame gate the key, the length and bytes 11 to 27 are all that is read. -/
theorem unreadFrameFieldsHaveNoEffect : Obligations.UnreadFrameFieldsHaveNoEffect := by
  intro rom f g hlength _ hf hg hagree
  have hdecode : decodePayload ((f.drop 11).take 17) = decodePayload ((g.drop 11).take 17) := by
    refine decodePayload_congr fun k hk => ?_
    rw [byteAt_take _ _ _ (by omega), byteAt_take _ _ _ (by omega), byteAt_drop, byteAt_drop,
      hagree _ (by omega) (by omega)]
  rw [classify_of_frameOk hf, classify_of_frameOk hg, dispatchLabel_eq, dispatchLabel_eq, rcPushLabel_eq,
    rcPushLabel_eq, hagree 9 (by omega) (by omega), hagree 10 (by omega) (by omega), hlength, hdecode]

/-! ### The dispatch rows (43_parser R230 to R232, R236) -/

theorem State.deliver_accepted (s : State) (h : Nat) (p : Slot) (v : Snapshot) :
    s.deliver h p [.accepted v] = { s with events := s.events ++ [p.event h v] } := by
  simp [State.deliver, snapshotsOf, reasonsOf, Label.snapshot?, Label.reason?]

theorem State.deliver_dropped (s : State) (h : Nat) (p : Slot) (r : DropReason) :
    s.deliver h p [.dropped r] = { s with drops := s.drops ++ [(h, r)] } := by
  simp [State.deliver, snapshotsOf, reasonsOf, Label.snapshot?, Label.reason?]

/-- Settles O45: the row delivers the label of the frame, which its length decides. -/
theorem rcPushEmitsOrDrops : Obligations.RcPushEmitsOrDrops := by
  intro s h p f hp hlive
  have hexec : exec (.rcPush h f) s = .next (s.deliver h p [rcPushLabel f]) :=
    congrArg _ (State.retire_of_live hp hlive _)
  rw [hexec, rcPushLabel_eq]
  refine ⟨fun hlong => ?_, fun hshort => ?_⟩
  · rw [if_neg (by omega), State.deliver_accepted]
    rfl
  · rw [if_pos hshort, State.deliver_dropped]

/-- Settles O46: each of the three rows delivers the label NOT_PUSH. -/
theorem otherRowsDropTheFrame : Obligations.OtherRowsDropTheFrame := by
  intro s h p f hp hlive
  have hretire : s.retire h notPushLabel = { s with drops := s.drops ++ [(h, .notPush)] } :=
    (State.retire_of_live hp hlive _).trans (State.deliver_dropped s h p .notPush)
  exact ⟨congrArg _ hretire, congrArg _ hretire, congrArg _ hretire⟩

end Sys2Proof.Machine
end

section
/-! The scanner's rows (43_parser R221 to R228, R238), where a scan ends (R250, R251), and what the feed modes and the
chunks of a stream make no difference to (R253). -/

namespace Sys2Proof.Machine

/-! ### The rows of the step selection (43_parser R238) -/

theorem Slot.scanStep_of_not_sof {rom : Rom} {p : Slot} (hscan : p.scan = .seekingStart) (hcount : 1 ≤ p.count.toNat)
    (hsof : p.ringAt 0 ≠ sof) : p.scanStep rom = some (p.discard 1, some (.dropped .notSof)) := by
  have hempty : ¬ p.count.toNat = 0 := by omega
  simp [Slot.scanStep, Slot.select, Slot.perform, hscan, hempty, hsof]

theorem Slot.scanStep_of_not_headerOk {rom : Rom} {p : Slot} (hscan : p.scan = .seekingStart)
    (hcount : 4 ≤ p.count.toNat) (hsof : p.ringAt 0 = sof) (hck : headerOk rom p = false) :
    p.scanStep rom = some (p.discard 1, some (.dropped .hdrCk)) := by
  have hempty : ¬ p.count.toNat = 0 := by omega
  have hshort : ¬ p.count.toNat < 4 := by omega
  simp [Slot.scanStep, Slot.select, Slot.perform, hscan, hempty, hsof, hshort, hck]

theorem Slot.scanStep_of_lenRange {rom : Rom} {p : Slot} (hscan : p.scan = .seekingStart)
    (hcount : 4 ≤ p.count.toNat) (hsof : p.ringAt 0 = sof) (hok : headerOk rom p = true)
    (hlen : lenOf p.header < 13) : p.scanStep rom = some (p.discard 1, some (.dropped .lenRange)) := by
  have hrange : ¬ lengthOk (lenOf p.header) = true := by rw [lengthOk_iff]; omega
  rw [Slot.scanStep_of_headerOk hscan hcount hsof hok, if_neg hrange]

/-- A 10-bit length is below 1400, so the length gate has no upper end (43_parser R225). -/
theorem Slot.scanStep_of_latch {rom : Rom} {p : Slot} (hscan : p.scan = .seekingStart)
    (hcount : 4 ≤ p.count.toNat) (hsof : p.ringAt 0 = sof) (hok : headerOk rom p = true)
    (hlen : 13 ≤ lenOf p.header) : p.scanStep rom = some (p.latch (lenOf p.header), none) := by
  have hlt := lenOf_lt p.header
  have hrange : lengthOk (lenOf p.header) = true := by rw [lengthOk_iff]; omega
  rw [Slot.scanStep_of_headerOk hscan hcount hsof hok, if_pos hrange]

theorem Slot.scanStep_of_candidate (rom : Rom) {p : Slot} (hscan : p.scan = .accumulatingFrame)
    (hcount : p.expLen.toNat ≤ p.count.toNat) :
    p.scanStep rom =
      some ((p.discard p.expLen.toNat).seek, some (classify rom (p.contents.take p.expLen.toNat))) := by
  have hwhole : ¬ p.count.toNat < p.expLen.toNat := by omega
  simp [Slot.scanStep, Slot.select, Slot.perform, hscan, hwhole, Slot.copy_eq_take_contents hcount]

/-- Settles O33: one row each, with the two gates as the statement spells them. -/
theorem stepSelectionTable : Obligations.StepSelectionTable := by
  intro rom p
  dsimp only
  rw [← headerOk_iff, ← lenOf_header]
  refine ⟨fun hscan => ⟨fun hempty => ?_, ?_, fun _ hshort hsof => ?_, fun hcount hsof hck => ?_, ?_, ?_⟩,
    fun hscan hless => ?_⟩
  · exact (Slot.scanStep_none rom p).mpr (.inl ⟨hscan, .inl hempty⟩)
  · exact Slot.scanStep_of_not_sof hscan
  · exact (Slot.scanStep_none rom p).mpr (.inl ⟨hscan, .inr ⟨hsof, by omega⟩⟩)
  · exact Slot.scanStep_of_not_headerOk hscan hcount hsof (Bool.eq_false_of_not_eq_true hck)
  · exact Slot.scanStep_of_lenRange hscan
  · exact Slot.scanStep_of_latch hscan
  · exact (Slot.scanStep_none rom p).mpr (.inr ⟨hscan, hless⟩)

/-- The logical contents depend on HEAD, COUNT and RING alone (20_memory R65). -/
theorem Slot.contents_congr {p q : Slot} (hh : p.head = q.head) (hc : p.count = q.count) (hr : p.ring = q.ring) :
    p.contents = q.contents := by
  rw [Slot.contents, Slot.contents, Slot.copy, Slot.copy, hc]
  exact List.map_congr_left fun i _ => Slot.ringAt_congr p q hh hc hr i

@[simp] theorem Slot.contents_seek (p : Slot) : p.seek.contents = p.contents := Slot.contents_congr rfl rfl rfl
@[simp] theorem Slot.contents_latch (p : Slot) (n : Nat) : (p.latch n).contents = p.contents :=
  Slot.contents_congr rfl rfl rfl

/-- Settles O34: the step discards the candidate and writes STATE, and nothing else. -/
theorem takeConsumesTheCandidate : Obligations.TakeConsumesTheCandidate := by
  intro rom p hscan hcount
  refine ⟨_, Slot.scanStep_of_candidate rom hscan hcount, rfl, ?_, ?_, rfl, rfl, rfl, rfl, rfl, rfl⟩
  · rw [Slot.contents_seek, Slot.contents_discard hcount]
  · rw [Slot.seek_count, Slot.discard_count_toNat p _ hcount]

/-! ### The end of a scan (43_parser R250, R251) -/

theorem Slot.Quiescent.count_le {p : Slot} (h : p.Quiescent) : p.count.toNat ≤ 1022 := by
  rcases h with ⟨-, hc⟩ | ⟨-, -, -, hc⟩ | ⟨-, hc, he⟩ <;> omega

/-- Settles O37: a scan ends at a step that awaits, which is where the next scan begins. -/
theorem scanEndsQuiescent : Obligations.ScanEndsQuiescent := by
  intro rom p hb
  have hquiescent := Slot.quiescent_runScan rom hb
  exact ⟨hquiescent, hb.runScan rom, hquiescent.count_le, Slot.runScan_of_none rom _ (Slot.scanStep_runScan rom hb)⟩

/-- Settles O38: each step lowers a measure that is at most 2 COUNT. -/
theorem scanTerminates : Obligations.ScanTerminates := by
  intro rom p hb
  have hmeasure := p.scanMeasure_le
  have hsame : ∀ k, 2 * p.count.toNat ≤ k → Slot.scanFor rom k p = p.runScan rom := fun k hk =>
    Slot.scanFor_congr rom k _ p hb (by omega) (by rw [Slot.scanBound]; omega)
  refine ⟨?_, hsame⟩
  rw [hsame _ (Nat.le_refl _)]
  exact Slot.scanStep_runScan rom hb

/-! ### Feed modes and chunks (43_parser R253) -/

/-- Settles O39: both are the pushes and then one scan. -/
theorem bulkAndPerByteAgree : Obligations.BulkAndPerByteAgree := by
  intro rom p bs hb hq hroom
  exact (Slot.feed_eq_runScan_pushAll rom .perByte hb hq hroom).symm

/-- 43_parser R216: byte by byte, chunks make no difference. -/
theorem Slot.feedPerByte_append (rom : Rom) (p : Slot) (a b : List Byte) :
    p.feedPerByte rom (a ++ b) =
      (((p.feedPerByte rom a).1.feedPerByte rom b).1,
       (p.feedPerByte rom a).2 ++ ((p.feedPerByte rom a).1.feedPerByte rom b).2) := by
  induction a generalizing p with
  | nil => rfl
  | cons x a ih => rw [List.cons_append, Slot.feedPerByte, Slot.feedPerByte, ih, List.append_assoc]

/-- Without an overwrite the feed mode makes no difference to a quiescent slot. -/
theorem Slot.feed_eq_feedPerByte (rom : Rom) {mode : FeedMode} {p : Slot} {bs : List Byte} (hb : p.BoundsOk)
    (hq : p.Quiescent) (hroom : p.NoOverwrite mode bs.length) : p.feed rom mode bs = p.feedPerByte rom bs := by
  cases mode with
  | bulk => exact bulkAndPerByteAgree rom p bs hb hq (hroom.resolve_left FeedMode.noConfusion)
  | perByte => rfl

/-- A push raises COUNT by at most one. -/
theorem Slot.push_count_le (p : Slot) (b : Byte) : (p.push b).count.toNat ≤ p.count.toNat + 1 := by
  by_cases hroom : p.count.toNat < 4096
  · rw [Slot.push_count_of_lt p b hroom]
  · rw [Slot.push_count_of_full p b hroom]; omega

theorem Slot.pushAll_count_le (p : Slot) (bs : List Byte) :
    (p.pushAll bs).count.toNat ≤ p.count.toNat + bs.length := by
  induction bs generalizing p with
  | nil => exact Nat.le_refl _
  | cons b bs ih =>
    have hpush := p.push_count_le b
    have hrest : (p.pushAll (b :: bs)).count.toNat ≤ (p.push b).count.toNat + bs.length := ih (p.push b)
    rw [List.length_cons]
    omega

theorem Slot.runScan_count_le (rom : Rom) (p : Slot) : (p.runScan rom).1.count.toNat ≤ p.count.toNat :=
  Slot.runScan_induction (P := fun q => q.count.toNat ≤ p.count.toNat)
    (fun q q' l hq hstep => (Slot.scanStep_count_le rom q q' l hstep).trans hq) (Nat.le_refl _)

theorem Slot.BoundsOk.feed {p : Slot} (h : p.BoundsOk) (rom : Rom) (mode : FeedMode) (bs : List Byte) :
    (p.feed rom mode bs).1.BoundsOk :=
  Slot.feed_induction (fun _ b hq => hq.push b) (fun q q' l hq hstep => (Slot.scanStep_bounds rom q q' l hq hstep).1)
    mode bs h

/-- The room that two chunks need together is enough for the second after the first. -/
theorem Slot.NoOverwrite.after_feed {mode : FeedMode} {p : Slot} {a : List Byte} {n : Nat} (rom : Rom)
    (h : p.NoOverwrite mode (a.length + n)) : (p.feed rom mode a).1.NoOverwrite mode n := by
  cases mode with
  | perByte => exact .inl rfl
  | bulk =>
    have hfits := h.resolve_left FeedMode.noConfusion
    have hscan := Slot.runScan_count_le rom (p.pushAll a)
    have hpush := p.pushAll_count_le a
    exact .inr (by show ((p.pushAll a).runScan rom).1.count.toNat + n ≤ 4096; omega)

/-- Settles O40: without an overwrite each of the three feeds is a PER_BYTE feed. -/
theorem chunkingInvariance : Obligations.ChunkingInvariance := by
  intro rom mode p a b hb hq hroom
  have hroomA : p.NoOverwrite mode a.length := hroom.imp_right (by omega)
  have hroomAB : p.NoOverwrite mode (a ++ b).length := by rwa [List.length_append]
  rw [Slot.feed_eq_feedPerByte rom (hb.feed rom mode a) (Slot.quiescent_feed rom mode a hb hq) (hroom.after_feed rom),
    Slot.feed_eq_feedPerByte rom hb hq hroomAB, Slot.feed_eq_feedPerByte rom hb hq hroomA, Slot.feedPerByte_append]

end Sys2Proof.Machine
end

section
/-! The commands CREATE, FEED, RESET and DESTROY on the state (43_parser R210 to R219). -/

namespace Sys2Proof.Machine

/-! ### CREATE (43_parser R210, R211) -/

theorem State.forall_mem_slots_iff (s : State) (P : Slot → Prop) :
    (∀ p ∈ s.slots, P p) ↔ ∀ h p, s.slot? h = some p → P p := by
  refine ⟨fun hs h p hp => hs p (State.slot?_mem s h p hp), fun hs p hp => ?_⟩
  obtain ⟨k, hk⟩ := List.mem_iff_getElem?.mp hp
  exact hs (k + 1) p hk

theorem State.chooseSlot_eq_none_iff (s : State) : s.chooseSlot = none ↔ ∀ p ∈ s.slots, p.live = true := by
  rw [State.chooseSlot_none, List.eq_nil_iff_forall_not_mem, State.forall_mem_slots_iff]
  simp only [State.mem_freeHandles, not_exists, not_and, Bool.not_eq_false]

theorem exec_create_of_chooseSlot_eq_some {s : State} {h : Nat} (hchoose : s.chooseSlot = some h) (c : Token)
    (ctx : Option Token) : exec (.create (some c) ctx) s =
      .next (((s.updateSlot h fun p => p.create (some c) ctx).drawn 1).respond (.status .ok (.handle h))) := by
  simp [exec, execCreate, hchoose]

theorem exec_create_of_chooseSlot_eq_none {s : State} (hchoose : s.chooseSlot = none) (c : Token)
    (ctx : Option Token) :
    exec (.create (some c) ctx) s = .next (s.respond (.status .allocationFailed (.handle 0))) := by
  simp [exec, execCreate, hchoose]

/-- Settles O22: a FREE slot makes the choice succeed, and the slot chosen is FREE. -/
theorem createSetsUpAFreeSlot : Obligations.CreateSetsUpAFreeSlot := by
  rintro s c ctx ⟨p₀, hmem, hfree₀⟩
  cases hchoose : s.chooseSlot with
  | none =>
    have hlive := (State.chooseSlot_eq_none_iff s).mp hchoose p₀ hmem
    rw [hfree₀] at hlive
    cases hlive
  | some h =>
    obtain ⟨p, hp, hfree⟩ := State.chooseSlot_some s h hchoose
    refine ⟨h, p, p.create (some c) ctx, _, hp, hfree, exec_create_of_chooseSlot_eq_some hchoose c ctx, ?_, rfl, rfl,
      rfl, rfl, rfl, rfl, rfl, fun h' hne => ?_, ?_⟩
    · simp [State.slot?_updateSlot_self, hp]
    · simp [State.slot?_updateSlot_other s h h' _ hne]
    · simp

/-- Settles O23: a choice that succeeds answers OK, and it fails exactly when every slot is LIVE. -/
theorem createFailures : Obligations.CreateFailures := by
  refine fun s c ctx => ⟨?_, rfl⟩
  rw [← State.chooseSlot_eq_none_iff]
  refine ⟨fun hexec => ?_, fun hchoose => exec_create_of_chooseSlot_eq_none hchoose c ctx⟩
  cases hchoose : s.chooseSlot with
  | none => rfl
  | some h =>
    rw [exec_create_of_chooseSlot_eq_some hchoose] at hexec
    have hresponses := congrArg State.responses (Host.Outcome.next.inj hexec)
    simp at hresponses

/-! ### FEED (43_parser R212 to R214) -/

/-- Settles O24: the null checks come before every other. -/
theorem nullFeedReturnsZero : Obligations.NullFeedReturnsZero :=
  fun _ _ _ _ hnull => if_pos hnull

theorem State.slot?_eq_none_of_lt {s : State} {h : Nat} (hlt : s.slots.length < h) : s.slot? h = none := by
  rw [← Option.not_isSome_iff_eq_none, State.slot?_isSome, State.nInstances]
  omega

/-- Settles O25: neither kind of handle names a LIVE slot. -/
theorem danglingHandleRecordsFault : Obligations.DanglingHandleRecordsFault := by
  intro s h a n hfaults hne hdangling
  have hnone : s.liveSlot? h = none := by
    rw [State.liveSlot?_eq_none]
    intro q hq
    rcases hdangling with hlt | ⟨p, hp, hfree⟩
    · rw [State.slot?_eq_none_of_lt hlt] at hq
      cases hq
    · obtain rfl : p = q := Option.some.inj (hp.symm.trans hq)
      exact hfree
  rw [← State.recordFault_of_faults_nil hfaults]
  constructor
  · simp [exec, execFeed, hne, hnone]
  · simp [exec, execReset, hne, hnone]

@[simp] theorem State.feedSlot_queue (s : State) (h : Nat) (p : Slot) (bs : List Byte) :
    (s.feedSlot h p bs).queue = s.queue := by simp [State.feedSlot]
@[simp] theorem State.feedSlot_draws (s : State) (h : Nat) (p : Slot) (bs : List Byte) :
    (s.feedSlot h p bs).draws = s.draws := by simp [State.feedSlot]
@[simp] theorem State.feedSlot_drops (s : State) (h : Nat) (p : Slot) (bs : List Byte) :
    (s.feedSlot h p bs).drops = s.drops ++ (reasonsOf (p.feed s.rom s.feedMode bs).2).map fun r => (h, r) := by
  simp [State.feedSlot]

/-- Settles O26: a LIVE slot is fed by FEED_MODE, and the command's other effects are its outputs. -/
theorem feedPushesAndScans : Obligations.FeedPushesAndScans := by
  intro s h p a n hp hlive
  dsimp only
  refine ⟨fun hmode => by rw [hmode]; rfl, fun hmode => by rw [hmode]; rfl, _, exec_feed_of_live hp hlive a n, ?_,
    fun h' hne => ?_, ?_, State.feedSlot_events _ _ _ _, State.feedSlot_drops _ _ _ _, State.feedSlot_responses _ _ _ _,
    ?_⟩
  · rw [State.feedSlot_slot?, State.slot?_updateSlot_self, hp, Option.map_some]
  · rw [State.feedSlot_slot?, State.slot?_updateSlot_other s h h' _ hne]
  · rw [State.feedSlot_slots, State.updateSlot_slots_length]
  · simp

/-! ### DESTROY (43_parser R219) -/

theorem exec_destroy_of_slot? {s : State} {h : Nat} {p : Slot} (hp : s.slot? h = some p) : exec (.destroy h) s =
    .next ((if p.live then s.updateSlot h Slot.release else s).respond .done) := by
  simp [exec, execDestroy, State.ne_zero_of_slot?_eq_some hp, hp]

/-- Settles O29: a handle is NULL, names a slot, LIVE or FREE, or is out of range. -/
theorem destroyFreesTheSlot : Obligations.DestroyFreesTheSlot := by
  intro s h p
  refine ⟨fun hp hlive => ?_, ?_, fun hfaults hlt => ?_⟩
  · have hexec := exec_destroy_of_slot? hp
    rw [if_pos hlive] at hexec
    refine ⟨_, p.release, hexec, ?_, rfl, fun h' hne => ?_, ?_⟩
    · simp [State.slot?_updateSlot_self, hp]
    · simp [State.slot?_updateSlot_other s h h' _ hne]
    · simp
  · rintro (rfl | ⟨hp, hfree⟩)
    · rfl
    · rw [exec_destroy_of_slot? hp, hfree]
      rfl
  · have hne : h ≠ 0 := by omega
    rw [← State.recordFault_of_faults_nil hfaults]
    simp [exec, execDestroy, hne, State.slot?_eq_none_of_lt hlt]

end Sys2Proof.Machine
end

section
/-! What a scan takes from the front of the stream, and with it how many events a FEED can have (43_parser R217). -/

namespace Sys2Proof.Machine

/-! ### What a scan consumes -/

/-- 43_parser R232: an accepted candidate has a payload of at least 17 bytes. -/
theorem snapshotsOf_classify_length (rom : Rom) (f : List Byte) :
    30 * (snapshotsOf [classify rom f]).length ≤ f.length := by
  by_cases hok : frameOk rom f = true
  · rw [classify_of_frameOk hok, dispatchLabel_eq, rcPushLabel_eq]
    split_ifs with hpush hshort
    · exact Nat.zero_le _
    · simp only [snapshotsOf, List.filterMap_cons, Label.snapshot?, List.filterMap_nil, List.length_singleton]
      omega
    · exact Nat.zero_le _
  · rw [classify_of_not_frameOk hok]
    exact Nat.zero_le _

/-- The slot `q` is `p` with some bytes gone from the front of the stream, at least 30 for each snapshot that `ls`
accepts. -/
def Slot.Consumes (p q : Slot) (ls : List Label) : Prop :=
  ∃ n ≤ p.count.toNat, q.contents = p.contents.drop n ∧ 30 * (snapshotsOf ls).length ≤ n

theorem Slot.consumes_nil (p : Slot) : p.Consumes p [] := ⟨0, Nat.zero_le _, rfl, Nat.le_refl _⟩

theorem Slot.Consumes.count {p q : Slot} {ls : List Label} (h : p.Consumes q ls) :
    q.count.toNat + 30 * (snapshotsOf ls).length ≤ p.count.toNat := by
  obtain ⟨n, hn, hcontents, hsnapshots⟩ := h
  have hlength := congrArg List.length hcontents
  rw [List.length_drop, Slot.contents_length, Slot.contents_length] at hlength
  omega

theorem Slot.Consumes.suffix {p q : Slot} {ls : List Label} (h : p.Consumes q ls) : q.contents <:+ p.contents := by
  obtain ⟨n, -, hcontents, -⟩ := h
  rw [hcontents]
  exact List.drop_suffix n _

theorem Slot.Consumes.trans {p q r : Slot} {ls ms : List Label} (h : p.Consumes q ls) (h' : q.Consumes r ms) :
    p.Consumes r (ls ++ ms) := by
  have hcount := h.count
  obtain ⟨n, hn, hcontents, hsnapshots⟩ := h
  obtain ⟨m, hm, hcontents', hsnapshots'⟩ := h'
  have hlength := congrArg List.length hcontents
  rw [List.length_drop, Slot.contents_length, Slot.contents_length] at hlength
  refine ⟨n + m, by omega, by rw [hcontents', hcontents, List.drop_drop], ?_⟩
  rw [snapshotsOf, List.filterMap_append, List.length_append]
  simp only [snapshotsOf] at hsnapshots hsnapshots'
  omega

/-- A discard that accepts nothing. -/
theorem Slot.consumes_discard_one {p : Slot} (r : DropReason) (hcount : 1 ≤ p.count.toNat) :
    p.Consumes (p.discard 1) [.dropped r] :=
  ⟨1, hcount, Slot.contents_discard hcount, Nat.zero_le _⟩

/-- Every scanner step consumes bytes at the front of the stream, S_LATCH none. -/
theorem Slot.consumes_scanStep {rom : Rom} {p q : Slot} {l : Option Label} (h : p.scanStep rom = some (q, l)) :
    p.Consumes q l.toList := by
  rcases Slot.scanStep_some rom p q l h with ⟨-, hc, -, rfl, rfl⟩ | ⟨-, hc, -, -, rfl, rfl⟩ |
    ⟨-, hc, -, -, -, rfl, rfl⟩ | ⟨-, -, -, -, -, rfl, rfl⟩ | ⟨-, hc, rfl, rfl⟩
  · exact Slot.consumes_discard_one _ hc
  · exact Slot.consumes_discard_one _ (by omega)
  · exact Slot.consumes_discard_one _ (by omega)
  · exact ⟨0, Nat.zero_le _, Slot.contents_latch p _, Nat.le_refl _⟩
  · refine ⟨_, hc, by rw [Slot.contents_seek, Slot.contents_discard hc], ?_⟩
    exact (snapshotsOf_classify_length rom _).trans (by rw [Slot.copy_length])

theorem Slot.consumes_scanFor (rom : Rom) (k : Nat) (p : Slot) :
    p.Consumes (Slot.scanFor rom k p).1 (Slot.scanFor rom k p).2 := by
  induction k generalizing p with
  | zero => exact p.consumes_nil
  | succ k ih =>
    rw [Slot.scanFor]
    cases hstep : p.scanStep rom with
    | none => exact p.consumes_nil
    | some r => exact (Slot.consumes_scanStep hstep).trans (ih r.1)

theorem Slot.consumes_runScan (rom : Rom) (p : Slot) : p.Consumes (p.runScan rom).1 (p.runScan rom).2 :=
  Slot.consumes_scanFor rom p.scanBound p

/-! ### The events of a FEED (43_parser R217) -/

theorem Slot.snapshots_feedBulk (rom : Rom) (p : Slot) (bs : List Byte) :
    30 * (snapshotsOf (p.feedBulk rom bs).2).length ≤ (p.pushAll bs).count.toNat := by
  have hscan := (Slot.consumes_runScan rom (p.pushAll bs)).count
  rw [Slot.feedBulk]
  omega

theorem snapshotsOf_append (ls ms : List Label) : snapshotsOf (ls ++ ms) = snapshotsOf ls ++ snapshotsOf ms :=
  List.filterMap_append

/-- Every event of a PER_BYTE FEED takes 30 of the bytes buffered before or pushed. -/
theorem Slot.snapshots_feedPerByte (rom : Rom) (p : Slot) (bs : List Byte) :
    30 * (snapshotsOf (p.feedPerByte rom bs).2).length ≤ p.count.toNat + bs.length := by
  induction bs generalizing p with
  | nil => exact Nat.zero_le _
  | cons b bs ih =>
    have hpush := p.push_count_le b
    have hscan := (Slot.consumes_runScan rom (p.push b)).count
    have hrest := ih ((p.push b).runScan rom).1
    rw [Slot.feedPerByte, snapshotsOf_append, List.length_append, List.length_cons]
    omega

/-- A candidate that is all that is buffered gives one label, and nothing is left. -/
theorem Slot.runScan_of_whole_candidate (rom : Rom) {p : Slot} (hb : p.BoundsOk) (hscan : p.scan = .accumulatingFrame)
    (hwhole : p.expLen.toNat = p.count.toNat) : ∃ r l, p.runScan rom = (r, [l]) ∧ r.count.toNat = 0 := by
  obtain ⟨r, htake, hseek, hempty, -⟩ := Slot.scanStep_of_whole_candidate rom hscan hwhole
  have hzero : r.count.toNat = 0 := by rw [hempty]; rfl
  have hawait : r.scanStep rom = none := (Slot.scanStep_none rom r).mpr (.inl ⟨hseek, .inl hzero⟩)
  refine ⟨r, classify rom p.contents, ?_, hzero⟩
  rw [Slot.runScan_of_some rom p r _ hb htake, Slot.runScan_of_none rom r hawait]
  rfl

/-- A byte pushed into a quiescent slot completes at most one candidate, and then nothing is left (43_parser R228). -/
theorem Slot.snapshots_runScan_push (rom : Rom) (b : Byte) {p : Slot} (hb : p.BoundsOk) (hq : p.Quiescent) :
    snapshotsOf ((p.push b).runScan rom).2 = [] ∨
      (snapshotsOf ((p.push b).runScan rom).2).length ≤ 1 ∧ ((p.push b).runScan rom).1.count.toNat = 0 := by
  have hcount := Slot.push_count_of_lt p b hq.count_lt
  have htake := (Slot.consumes_runScan rom (p.push b)).count
  have hseeking : p.count.toNat ≤ 3 → snapshotsOf ((p.push b).runScan rom).2 = [] := fun hshort =>
    List.length_eq_zero_iff.mp (by omega)
  rcases hq with ⟨-, hempty⟩ | ⟨-, -, -, hshort⟩ | ⟨hacc, hless, -⟩
  · exact .inl (hseeking (by omega))
  · exact .inl (hseeking hshort)
  · by_cases hwhole : p.expLen.toNat = p.count.toNat + 1
    · obtain ⟨r, l, hscan, hzero⟩ :=
        Slot.runScan_of_whole_candidate rom (hb.push b) hacc (hwhole.trans hcount.symm)
      rw [hscan]
      exact .inr ⟨List.length_filterMap_le _ _, hzero⟩
    · have hawait : (p.push b).scanStep rom = none :=
        (Slot.scanStep_none rom _).mpr (.inr ⟨hacc, by rw [hcount, Slot.push_expLen]; omega⟩)
      rw [Slot.runScan_of_none rom _ hawait]
      exact .inl rfl

/-- A quiescent slot may hold a candidate that is nearly whole, hence one event more than the bytes pushed pay for. -/
theorem Slot.snapshots_feedPerByte_of_quiescent (rom : Rom) {p : Slot} (bs : List Byte) (hb : p.BoundsOk)
    (hq : p.Quiescent) : (snapshotsOf (p.feedPerByte rom bs).2).length ≤ bs.length / 30 + 1 := by
  induction bs generalizing p with
  | nil => exact Nat.zero_le _
  | cons b bs ih =>
    rw [Slot.feedPerByte, snapshotsOf_append, List.length_append, List.length_cons]
    rcases Slot.snapshots_runScan_push rom b hb hq with hnone | ⟨hone, hempty⟩
    · have hrest := ih ((hb.push b).runScan rom) (Slot.quiescent_runScan rom (hb.push b))
      rw [hnone, List.length_nil]
      omega
    · have hrest := Slot.snapshots_feedPerByte rom ((p.push b).runScan rom).1 bs
      omega

theorem Slot.pushAll_count_le_ringCap {p : Slot} (bs : List Byte) (hcount : p.count.toNat ≤ 4096) :
    (p.pushAll bs).count.toNat ≤ 4096 :=
  List.foldlRecOn (motive := fun q => q.count.toNat ≤ 4096) bs Slot.push hcount fun q hq b _ => by
    rw [Slot.push_count_toNat b hq]
    omega

/-- 43_parser R217: the count of events is far from a wrap. -/
theorem Slot.snapshots_feed (rom : Rom) (mode : FeedMode) (p : Slot) (bs : List Byte) :
    30 * (snapshotsOf (p.feed rom mode bs).2).length ≤ p.count.toNat + bs.length := by
  cases mode with
  | bulk => exact (Slot.snapshots_feedBulk rom p bs).trans (p.pushAll_count_le bs)
  | perByte => exact Slot.snapshots_feedPerByte rom p bs

/-- Settles O27: an event takes at least 30 bytes of the stream. -/
theorem deliveredCountsTheEvents : Obligations.DeliveredCountsTheEvents := by
  intro s h p a n hp hlive
  have hlength : (Memory.readBytes s.mem a.toNat n.toNat).length = n.toNat := Memory.readBytes_length _ _ _
  refine ⟨_, _, exec_feed_of_live hp hlive a n, State.feedSlot_responses _ _ _ _, ?_⟩
  generalize Memory.readBytes s.mem a.toNat n.toNat = bytes at hlength
  have hwrap : (BitVec.ofNat 32 (snapshotsOf (p.feed s.rom s.feedMode bytes).2).length).toNat =
      (snapshotsOf (p.feed s.rom s.feedMode bytes).2).length := by
    have hmany := Slot.snapshots_feed s.rom s.feedMode p bytes
    have hcount := p.count.isLt
    have hn := n.isLt
    rw [BitVec.toNat_ofNat]
    omega
  rw [hwrap]
  refine ⟨?_, fun hmode hcount => ?_, fun hmode hb hq => ?_⟩
  · rw [State.feedSlot_events, List.length_append, List.length_map]
  · have hbulk := Slot.snapshots_feedBulk s.rom p bytes
    have hfull := Slot.pushAll_count_le_ringCap bytes hcount
    rw [hmode, Slot.feed]
    omega
  · rw [hmode, ← hlength]
    exact Slot.snapshots_feedPerByte_of_quiescent s.rom bytes hb hq

end Sys2Proof.Machine
end

section
/-! The pushes of a BULK FEED on the logical contents, with and without an overwrite (43_parser R215, R259). -/

namespace Sys2Proof.Machine

theorem Slot.contents_push {p : Slot} (b : Byte) (hw : Memory.wf p.ring = true) (hcount : p.count.toNat ≤ 4096) :
    (p.push b).contents = (p.contents ++ [b]).drop (p.count.toNat + 1 - 4096) := by
  by_cases hroom : p.count.toNat < 4096
  · rw [Slot.contents_push_of_lt b hw hroom, Nat.sub_eq_zero_of_le (by omega), List.drop_zero]
  · have hfull : p.count.toNat = 4096 := by omega
    rw [Slot.contents_push_of_full b hw hfull, hfull, Nat.add_sub_cancel_left,
      List.drop_append_of_le_length (by rw [Slot.contents_length]; omega)]

theorem Slot.contents_pushAll {p : Slot} (bs : List Byte) (hw : Memory.wf p.ring = true)
    (hcount : p.count.toNat ≤ 4096) :
    (p.pushAll bs).contents = (p.contents ++ bs).drop (p.count.toNat + bs.length - 4096) := by
  induction bs generalizing p with
  | nil => rw [List.append_nil, List.length_nil, Nat.sub_eq_zero_of_le (by omega), List.drop_zero]; rfl
  | cons b bs ih =>
    have hpush := Slot.push_count_toNat b hcount
    calc (p.pushAll (b :: bs)).contents = ((p.push b).pushAll bs).contents := rfl
      _ = ((p.push b).contents ++ bs).drop ((p.push b).count.toNat + bs.length - 4096) :=
        ih (Memory.wf_write _ _ _ hw) (by omega)
      _ = (p.contents ++ [b] ++ bs).drop
            (p.count.toNat + 1 - 4096 + ((p.push b).count.toNat + bs.length - 4096)) := by
        rw [Slot.contents_push b hw hcount, ← List.drop_append_of_le_length (by simp; omega), List.drop_drop]
      _ = (p.contents ++ b :: bs).drop (p.count.toNat + (b :: bs).length - 4096) := by
        rw [List.append_assoc, List.singleton_append, show p.count.toNat + 1 - 4096 +
          ((p.push b).count.toNat + bs.length - 4096) = p.count.toNat + (b :: bs).length - 4096 by
            rw [hpush, List.length_cons]; omega]

theorem Slot.pushAll_expLen (p : Slot) (bs : List Byte) : (p.pushAll bs).expLen = p.expLen :=
  List.foldlRecOn (motive := fun q => q.expLen = p.expLen) bs Slot.push rfl fun _ hq b _ =>
    (Slot.push_expLen _ b).trans hq

/-- Settles O32: a push appends, and into a full ring it drops the oldest byte. -/
theorem bulkPushKeepsTheLastBytes : Obligations.BulkPushKeepsTheLastBytes := by
  intro p bs hw hcount
  exact ⟨Slot.contents_pushAll bs hw hcount, p.pushAll_scan bs, p.pushAll_expLen bs⟩

theorem Slot.pushAll_count_toNat {p : Slot} (bs : List Byte) (hw : Memory.wf p.ring = true)
    (hcount : p.count.toNat ≤ 4096) : (p.pushAll bs).count.toNat = min (p.count.toNat + bs.length) 4096 := by
  rw [← Slot.contents_length, Slot.contents_pushAll bs hw hcount, List.length_drop, List.length_append,
    Slot.contents_length]
  omega

end Sys2Proof.Machine
end

section
/-! Bytes other than 0x55: at a frame boundary (43_parser R254), and as the recovery after an overflow (R255). -/

namespace Sys2Proof.Machine

/-- A frame boundary: nothing is buffered and the scanner seeks (43_parser R250 (a)). -/
def Slot.AtBoundary (p : Slot) : Prop := p.scan = .seekingStart ∧ p.count = 0#13

theorem Slot.AtBoundary.contents {p : Slot} (h : p.AtBoundary) : p.contents = [] := by
  rw [Slot.contents, h.2]
  rfl

/-- At a frame boundary a byte other than 0x55 is dropped at once. -/
theorem Slot.AtBoundary.runScan_push {p : Slot} (h : p.AtBoundary) (rom : Rom) (hw : Memory.wf p.ring = true) {b : Byte}
    (hsof : b ≠ sof) : (p.push b).runScan rom = ((p.push b).discard 1, [.dropped .notSof]) := by
  obtain ⟨hscan, hcount⟩ := h
  have hzero : p.count.toNat = 0 := by rw [hcount]; rfl
  have hone := Slot.push_count_of_lt p b (by omega)
  have hfirst : (p.push b).ringAt 0 = b := by
    rw [← hzero]
    exact Slot.ringAt_push_new p b (by omega) hw
  have hdrop := Slot.scanStep_of_not_sof (rom := rom) (p := p.push b) hscan (by omega) (by rwa [hfirst])
  have hgone := Slot.discard_count_toNat (p.push b) 1 (by omega)
  have hawait : ((p.push b).discard 1).scanStep rom = none :=
    (Slot.scanStep_none rom _).mpr (.inl ⟨hscan, .inl (by omega)⟩)
  have hbounds : (p.push b).BoundsOk := ⟨by omega, by simp [hscan]⟩
  rw [Slot.runScan_of_some rom _ _ _ hbounds hdrop, Slot.runScan_of_none rom _ hawait]
  rfl

theorem Slot.AtBoundary.push_discard {p : Slot} (h : p.AtBoundary) (b : Byte) : ((p.push b).discard 1).AtBoundary := by
  obtain ⟨hscan, hcount⟩ := h
  refine ⟨hscan, ?_⟩
  rw [Slot.discard_count, Slot.push_count, hcount]
  rfl

/-- Bytes other than 0x55 leave a slot at its frame boundary, with EXPLEN as it was, and accept nothing. -/
theorem Slot.AtBoundary.feedPerByte {p : Slot} (h : p.AtBoundary) (rom : Rom) (hw : Memory.wf p.ring = true)
    {bs : List Byte} (hsof : ∀ b ∈ bs, b ≠ sof) :
    (p.feedPerByte rom bs).1.AtBoundary ∧ Memory.wf (p.feedPerByte rom bs).1.ring = true ∧
      (p.feedPerByte rom bs).1.expLen = p.expLen ∧ snapshotsOf (p.feedPerByte rom bs).2 = [] := by
  induction bs generalizing p with
  | nil => exact ⟨h, hw, rfl, rfl⟩
  | cons b bs ih =>
    obtain ⟨hfirst, hrest⟩ := List.forall_mem_cons.mp hsof
    rw [Slot.feedPerByte, h.runScan_push rom hw hfirst]
    exact ih (h.push_discard b) (Memory.wf_write _ _ _ hw) hrest

/-! ### Overflow recovery (43_parser R255) -/

theorem Slot.InFeedOk.pushAll {p : Slot} (h : p.InFeedOk) (bs : List Byte) : (p.pushAll bs).InFeedOk :=
  List.foldlRecOn bs Slot.push h fun _ hq b _ => hq.push b

/-- After a scan that does not begin by waiting for the rest of a candidate, a latched header is one that the scan
checked. -/
theorem Slot.headerLatched_runScan (rom : Rom) {p : Slot} (hb : p.BoundsOk)
    (hwhole : p.scan = .accumulatingFrame → p.expLen.toNat ≤ p.count.toNat) :
    (p.runScan rom).1.HeaderLatched rom := by
  cases hstep : p.scanStep rom with
  | none =>
    rw [Slot.runScan_of_none rom p hstep]
    intro hacc
    have hle := hwhole hacc
    rcases (Slot.scanStep_none rom p).mp hstep with ⟨hseek, -⟩ | ⟨-, hless⟩
    · cases hacc.symm.trans hseek
    · omega
  | some r =>
    rw [Slot.runScan_of_some rom p r.1 r.2 hb hstep]
    exact Slot.runScan_induction (fun q q' l _ h => Slot.HeaderLatched.scanStep h) (Slot.HeaderLatched.scanStep hstep)

/-- A slot that holds bytes, 0x55 the first of them, has a 0x55 in its contents. -/
theorem Slot.sof_mem_contents {p : Slot} (hcount : 1 ≤ p.count.toNat) (hsof : p.ringAt 0 = sof) :
    sof ∈ p.contents := by
  rw [← hsof]
  exact List.mem_map.mpr ⟨0, List.mem_range.mpr hcount, rfl⟩

/-- What is left buffered after a scan begins with 0x55 and has at most 1022 bytes, so after 1022 bytes without 0x55
nothing is left. -/
theorem Slot.InFeedOk.runScan_pushAll {p : Slot} (h : p.InFeedOk) (rom : Rom) {tail : List Byte}
    (hlong : 1022 ≤ tail.length) (hsof : ∀ b ∈ tail, b ≠ sof) :
    ((p.pushAll tail).runScan rom).1.AtBoundary := by
  obtain ⟨⟨hw, -⟩, hb, hfour⟩ := h
  have hbounds := hb.pushAll tail
  have hcount := Slot.pushAll_count_toNat tail hw hb.1
  have hlatched : ((p.pushAll tail).runScan rom).1.HeaderLatched rom := by
    refine Slot.headerLatched_runScan rom hbounds fun hacc => ?_
    have hmax := (hbounds.2 hacc).2
    rw [Slot.pushAll_scan] at hacc
    have hheader := hfour hacc
    omega
  have hquiescent := Slot.quiescent_runScan rom hbounds
  have hsuffix : ((p.pushAll tail).runScan rom).1.contents <:+ tail := by
    have hstream : ((p.pushAll tail).runScan rom).1.contents <:+ p.contents ++ tail := by
      refine (Slot.consumes_runScan rom _).suffix.trans ?_
      rw [Slot.contents_pushAll tail hw hb.1]
      exact List.drop_suffix _ _
    refine List.suffix_of_suffix_length_le hstream (List.suffix_append _ _) ?_
    rw [Slot.contents_length]
    exact hquiescent.count_le.trans hlong
  have hfirst : 1 ≤ ((p.pushAll tail).runScan rom).1.count.toNat →
      ((p.pushAll tail).runScan rom).1.ringAt 0 ≠ sof := fun hpos h0 =>
    hsof sof (hsuffix.mem (Slot.sof_mem_contents hpos h0)) rfl
  rcases hquiescent with ⟨hseek, hempty⟩ | ⟨-, h0, hpos, -⟩ | ⟨hacc, -, -⟩
  · exact ⟨hseek, BitVec.eq_of_toNat_eq hempty⟩
  · exact absurd h0 (hfirst hpos)
  · obtain ⟨h0, -, -, hpos⟩ := hlatched hacc
    exact absurd h0 (hfirst (by omega))

/-- Settles O42: in PER_BYTE mode too 1022 bytes overwrite nothing, so they may as well be pushed first, and the bytes
after them arrive at a frame boundary. -/
theorem overflowRecovery : Obligations.OverflowRecovery := by
  intro rom mode p before tail hring hregs hlong hsof
  obtain ⟨-, hb, hq, hfour⟩ := hregs
  have hok : p.InFeedOk := ⟨hring, hb, hfour⟩
  show (p.feed rom mode (before ++ tail)).1.AtBoundary
  cases mode with
  | bulk =>
    have hsplit : p.pushAll (before ++ tail) = (p.pushAll before).pushAll tail := List.foldl_append
    rw [Slot.feed, Slot.feedBulk, hsplit]
    exact (hok.pushAll before).runScan_pushAll rom hlong hsof
  | perByte =>
    have hokBefore : (p.feedPerByte rom before).1.InFeedOk := hok.feed rom .perByte before
    have hqBefore : (p.feedPerByte rom before).1.Quiescent := Slot.quiescent_feed rom .perByte before hb hq
    have hcount := hqBefore.count_le
    have hbBefore : (p.feedPerByte rom before).1.BoundsOk := hb.feed rom .perByte before
    have htake : (tail.take 1022).length = 1022 := List.length_take_of_le hlong
    rw [Slot.feed, Slot.feedPerByte_append, ← List.take_append_drop 1022 tail, Slot.feedPerByte_append,
      ← bulkAndPerByteAgree rom _ (tail.take 1022) hbBefore hqBefore (by omega)]
    obtain ⟨⟨hw, -⟩, -⟩ := hokBefore.feed rom .bulk (tail.take 1022)
    have hboundary := hokBefore.runScan_pushAll rom htake.ge fun b hmem => hsof b (List.mem_of_mem_take hmem)
    exact (hboundary.feedPerByte rom hw fun b hmem => hsof b (List.mem_of_mem_drop hmem)).1

end Sys2Proof.Machine
end

section
/-! Slots that hold the same stream behave alike (20_memory R65): garbage before a stream (43_parser R254), and RESET
(R256). -/

namespace Sys2Proof.Machine

/-! ### Slots that hold the same stream -/

/-- Two slots in the same scanner state with the same logical contents, wherever these stand in RING, and both with a
ring that pushes may write. -/
structure Slot.Alike (p q : Slot) : Prop where
  scan : p.scan = q.scan
  expLen : p.expLen = q.expLen
  contents : p.contents = q.contents
  wf_left : Memory.wf p.ring = true
  wf_right : Memory.wf q.ring = true
  count_le : p.count.toNat ≤ 4096

namespace Slot.Alike

variable {rom : Rom} {p q : Slot}

theorem count (h : p.Alike q) : p.count.toNat = q.count.toNat := by
  rw [← p.contents_length, ← q.contents_length, h.contents]

theorem ringAt (h : p.Alike q) {i : Nat} (hi : i < p.count.toNat) : p.ringAt i = q.ringAt i := by
  rw [← Slot.byteAt_copy p _ i hi, ← Slot.byteAt_copy q _ i (h.count ▸ hi)]
  exact congrArg (byteAt · i) h.contents

theorem header (h : p.Alike q) (hfour : 4 ≤ p.count.toNat) : p.header = q.header := by
  rw [Slot.header, Slot.header, Slot.copy_eq_take_contents hfour, Slot.copy_eq_take_contents (h.count ▸ hfour),
    h.contents]

theorem push (h : p.Alike q) (b : Byte) : (p.push b).Alike (q.push b) where
  scan := h.scan
  expLen := h.expLen
  contents := by
    rw [Slot.contents_push b h.wf_left h.count_le, Slot.contents_push b h.wf_right (h.count ▸ h.count_le), h.contents,
      h.count]
  wf_left := Memory.wf_write _ _ _ h.wf_left
  wf_right := Memory.wf_write _ _ _ h.wf_right
  count_le := by have := h.count_le; rw [Slot.push_count_toNat b h.count_le]; omega

theorem pushAll (h : p.Alike q) (bs : List Byte) : (p.pushAll bs).Alike (q.pushAll bs) := by
  induction bs generalizing p q with
  | nil => exact h
  | cons b bs ih => exact ih (h.push b)

theorem discard (h : p.Alike q) {n : Nat} (hn : n ≤ p.count.toNat) : (p.discard n).Alike (q.discard n) where
  scan := h.scan
  expLen := h.expLen
  contents := by rw [Slot.contents_discard hn, Slot.contents_discard (h.count ▸ hn), h.contents]
  wf_left := h.wf_left
  wf_right := h.wf_right
  count_le := by have := h.count_le; rw [Slot.discard_count_toNat p n hn]; omega

theorem latch (h : p.Alike q) (n : Nat) : (p.latch n).Alike (q.latch n) :=
  ⟨rfl, rfl, by rw [Slot.contents_latch, Slot.contents_latch, h.contents], h.wf_left, h.wf_right, h.count_le⟩

theorem seek (h : p.Alike q) : p.seek.Alike q.seek :=
  ⟨rfl, h.expLen, by rw [Slot.contents_seek, Slot.contents_seek, h.contents], h.wf_left, h.wf_right, h.count_le⟩

/-! ### The scanner -/

theorem scanStep_none (h : p.Alike q) (hstep : p.scanStep rom = none) : q.scanStep rom = none := by
  rw [Slot.scanStep_none] at hstep ⊢
  rw [← h.scan, ← h.expLen, ← h.count]
  rcases hstep with ⟨hseek, hempty | ⟨hsof, hshort⟩⟩ | hacc
  · exact .inl ⟨hseek, .inl hempty⟩
  · by_cases hempty : p.count.toNat = 0
    · exact .inl ⟨hseek, .inl hempty⟩
    · exact .inl ⟨hseek, .inr ⟨by rw [← h.ringAt (by omega), hsof], hshort⟩⟩
  · exact .inr hacc

/-- A step reads nothing but STATE, EXPLEN and the logical contents. -/
theorem scanStep_some (h : p.Alike q) {p' : Slot} {l : Option Label} (hstep : p.scanStep rom = some (p', l)) :
    ∃ q', q.scanStep rom = some (q', l) ∧ p'.Alike q' := by
  have hscan := h.scan
  have hcount := h.count
  rcases Slot.scanStep_some rom p p' l hstep with ⟨hs, hc, hsof, rfl, rfl⟩ | ⟨hs, hc, hsof, hck, rfl, rfl⟩ |
    ⟨hs, hc, hsof, hok, hlen, rfl, rfl⟩ | ⟨hs, hc, hsof, hok, hlen, rfl, rfl⟩ | ⟨hs, hc, rfl, rfl⟩
  · rw [h.ringAt (by omega)] at hsof
    exact ⟨_, Slot.scanStep_of_not_sof (hscan ▸ hs) (by omega) hsof, h.discard hc⟩
  · rw [h.ringAt (by omega)] at hsof
    rw [headerOk_congr rom p q (h.header hc)] at hck
    exact ⟨_, Slot.scanStep_of_not_headerOk (hscan ▸ hs) (by omega) hsof hck, h.discard (by omega)⟩
  · rw [h.ringAt (by omega)] at hsof
    rw [headerOk_congr rom p q (h.header hc)] at hok
    rw [h.header hc] at hlen
    exact ⟨_, Slot.scanStep_of_lenRange (hscan ▸ hs) (by omega) hsof hok hlen, h.discard (by omega)⟩
  · rw [h.ringAt (by omega)] at hsof
    rw [headerOk_congr rom p q (h.header hc)] at hok
    rw [h.header hc] at hlen ⊢
    exact ⟨_, Slot.scanStep_of_latch (hscan ▸ hs) (by omega) hsof hok hlen, h.latch _⟩
  · have hc' : q.expLen.toNat ≤ q.count.toNat := by rw [← h.expLen]; omega
    refine ⟨_, ?_, (h.discard hc).seek⟩
    rw [Slot.scanStep_of_candidate rom (hscan ▸ hs) hc', Slot.copy_eq_take_contents hc, h.contents, h.expLen]

theorem scanFor (h : p.Alike q) (k : Nat) :
    (Slot.scanFor rom k p).1.Alike (Slot.scanFor rom k q).1 ∧
      (Slot.scanFor rom k p).2 = (Slot.scanFor rom k q).2 := by
  induction k generalizing p q with
  | zero => exact ⟨h, rfl⟩
  | succ k ih =>
    rw [Slot.scanFor, Slot.scanFor]
    cases hstep : p.scanStep rom with
    | none =>
      rw [h.scanStep_none hstep]
      exact ⟨h, rfl⟩
    | some r =>
      obtain ⟨q', hstep', h'⟩ := h.scanStep_some hstep
      obtain ⟨hslots, hlabels⟩ := ih h'
      rw [hstep']
      exact ⟨hslots, congrArg (r.2.toList ++ ·) hlabels⟩

theorem runScan (h : p.Alike q) :
    (p.runScan rom).1.Alike (q.runScan rom).1 ∧ (p.runScan rom).2 = (q.runScan rom).2 := by
  have hbound : q.scanBound = p.scanBound := by rw [Slot.scanBound, Slot.scanBound, h.count]
  rw [Slot.runScan, Slot.runScan, hbound]
  exact h.scanFor p.scanBound

/-! ### FEED -/

theorem feedPerByte (h : p.Alike q) (bs : List Byte) :
    (p.feedPerByte rom bs).1.Alike (q.feedPerByte rom bs).1 ∧
      (p.feedPerByte rom bs).2 = (q.feedPerByte rom bs).2 := by
  induction bs generalizing p q with
  | nil => exact ⟨h, rfl⟩
  | cons b bs ih =>
    obtain ⟨hslots, hlabels⟩ := (h.push b).runScan (rom := rom)
    obtain ⟨hslots', hlabels'⟩ := ih hslots
    exact ⟨hslots', congrArg₂ (· ++ ·) hlabels hlabels'⟩

/-- 20_memory R65: slots that hold the same stream say the same of every feed and hold the same stream after it. -/
theorem feed (h : p.Alike q) (rom : Rom) (mode : FeedMode) (bs : List Byte) :
    (p.feed rom mode bs).1.Alike (q.feed rom mode bs).1 ∧ (p.feed rom mode bs).2 = (q.feed rom mode bs).2 := by
  cases mode with
  | bulk => exact (h.pushAll bs).runScan
  | perByte => exact h.feedPerByte bs

end Slot.Alike

/-- At a frame boundary EXPLEN is all that may tell slots apart. -/
theorem Slot.AtBoundary.alike {p q : Slot} (hp : p.AtBoundary) (hq : q.AtBoundary) (hexp : p.expLen = q.expLen)
    (hwp : Memory.wf p.ring = true) (hwq : Memory.wf q.ring = true) : p.Alike q :=
  ⟨hp.1.trans hq.1.symm, hexp, hp.contents.trans hq.contents.symm, hwp, hwq, by rw [hp.2]; decide⟩

/-- Settles O43: a cleared slot is at a frame boundary as a fresh one is. -/
theorem resetSlotBehavesAsFresh : Obligations.ResetSlotBehavesAsFresh := by
  intro rom mode p bs hw
  have halike : p.clear.Alike (Slot.free.create p.cb p.ctx) :=
    Slot.AtBoundary.alike ⟨rfl, rfl⟩ ⟨rfl, rfl⟩ rfl hw rfl
  obtain ⟨hslots, hlabels⟩ := halike.feed rom mode bs
  exact ⟨hlabels, hslots.scan, hslots.expLen, hslots.contents⟩

/-- Settles O41: the stream arrives at the same frame boundary, since the bytes before it are dropped one by one. -/
theorem leadingGarbageIsInvisible : Obligations.LeadingGarbageIsInvisible := by
  intro rom mode p garbage bs hw hscan hcount hsof hroom
  have hboundary : p.AtBoundary := ⟨hscan, hcount⟩
  have hempty : p.count.toNat = 0 := by rw [hcount]; rfl
  have hbounds : p.BoundsOk := ⟨by omega, by simp [hscan]⟩
  have hquiescent : p.Quiescent := .inl ⟨hscan, hempty⟩
  have hperByte : p.feed rom mode garbage = p.feedPerByte rom garbage :=
    Slot.feed_eq_feedPerByte rom hbounds hquiescent (hroom.imp_right (by omega))
  obtain ⟨hboundary', hw', hexp, hnone⟩ := hboundary.feedPerByte rom hw hsof
  obtain ⟨hslots, hlabels⟩ := (hboundary'.alike hboundary hexp hw' hw).feed rom mode bs
  rw [chunkingInvariance rom mode p garbage bs hbounds hquiescent hroom, hperByte, snapshotsOf_append, hnone,
    List.nil_append]
  exact ⟨congrArg snapshotsOf hlabels, hslots.scan, hslots.contents⟩

end Sys2Proof.Machine
end

section
/-! The model faults as a record (60_exceptions R280, R281, R283): where a step stops, what the issue pattern records, and
that a recorded fault is the only effect of its command. -/

namespace Sys2Proof.Machine

/-! ### Where the machine does nothing (60_exceptions R281, R289) -/

theorem step_of_faults_ne_nil {s : State} (hfaults : s.faults ≠ []) : step s = .fault .quiescent :=
  if_neg hfaults

theorem step_of_queue_nil {s : State} (hfaults : s.faults = []) (hqueue : s.queue = []) : step s = .next s := by
  simp only [step, hfaults, hqueue, if_true]

/-- Settles O2: FAULTS is looked at before the queue. -/
theorem faultedStateHasNoStep : Obligations.FaultedStateHasNoStep :=
  fun _ => ⟨step_of_faults_ne_nil, step_of_queue_nil⟩

/-! ### The issue pattern (60_exceptions R283, 20_memory R77) -/

/-- 60_exceptions R276: the fault of a decoded command's issue pattern comes before what the command does. -/
theorem runCommand_of_issueFault {c : HostCommand} {i : Instr} {r : FaultReason} (s : State)
    (hdecode : decode .command c.bytes = .ok i) (hissue : issueFault c.issue i = some r) :
    s.runCommand c = .next (s.recordFault r) := by
  simp only [State.runCommand, hdecode, hissue]

/-- Settles O4: both issue patterns have a fault, which the port records in place of running the command. -/
theorem issuePatternFaultsAreRecorded : Obligations.IssuePatternFaultsAreRecorded := by
  intro s c rest i hfaults hqueue hdecode
  have recorded (r : FaultReason) (hissue : issueFault c.issue i = some r) :
      step s = .next { s with queue := rest, faults := [r] } := by
    rw [step_of_queue_cons hfaults hqueue, runCommand_of_issueFault _ hdecode hissue,
      State.recordFault_of_faults_nil (s := { s with queue := rest }) hfaults]
  constructor
  · intro hnested
    exact recorded .reentrantCommand (by rw [hnested]; rfl)
  · intro h hconcurrent htarget
    exact recorded .sharedInstance (by rw [hconcurrent]; exact if_pos htarget)

/-! ### A recorded fault is a command's only effect (60_exceptions R280) -/

/-- A command that changes FAULTS is one that records a fault: every other effect of a command leaves FAULTS alone. -/
theorem exists_eq_recordFault_of_faults_ne {i : Instr} {s t : State} (hexec : exec i s = .next t)
    (hne : t.faults ≠ s.faults) : ∃ r, t = s.recordFault r := by
  rcases exec_cases i s t hexec with hfault | ⟨r, rfl⟩ | ⟨out, f, r, rfl⟩ | ⟨out, cap, r, rfl⟩ | ⟨n, p, ls, rfl⟩ |
    ⟨cb, ctx, n, -, -, -, rfl⟩ | ⟨n, buf, k, p, -, -, -, -, rfl⟩ | ⟨n, p, -, -, -, -, rfl⟩ | ⟨n, p, -, -, -, -, rfl⟩
  · exact hfault
  all_goals exact absurd (by simp) hne

/-- 10_state R36: a reason that FAULTS holds already is not recorded again. -/
theorem State.recordFault_of_mem {s : State} {r : FaultReason} (hr : r ∈ s.faults) : s.recordFault r = s := by
  rw [State.recordFault, if_pos hr]

theorem State.recordFault_of_not_mem {s : State} {r : FaultReason} (hr : r ∉ s.faults) :
    s.recordFault r = { s with faults := s.faults ++ [r] } := by
  rw [State.recordFault, if_neg hr]

/-- Settles O51: FAULTS changes by a recorded fault alone, and then by a reason that it did not hold. -/
theorem faultingCommandChangesNothingElse : Obligations.FaultingCommandChangesNothingElse := by
  intro i s t hexec hne
  obtain ⟨r, rfl⟩ := exists_eq_recordFault_of_faults_ne hexec hne
  have hr : r ∉ s.faults := fun hmem => hne (by rw [State.recordFault_of_mem hmem])
  exact ⟨r, hr, State.recordFault_of_not_mem hr⟩

end Sys2Proof.Machine
end

section
/-! States that differ in drop labels alone (60_exceptions R274): every operation on the state answers alike on them, and so
does every command and every step. -/

namespace Sys2Proof.Machine

/-- `t` is `s` but for the trace of drop labels. -/
def State.SameButDrops (s t : State) : Prop := ∃ d, t = { s with drops := d }

namespace State.SameButDrops

variable {s t : State}

/-! ### What is read (10_state R22, R32; 20_memory R70) -/

theorem rom (h : s.SameButDrops t) : t.rom = s.rom := by obtain ⟨d, rfl⟩ := h; rfl

theorem feedMode (h : s.SameButDrops t) : t.feedMode = s.feedMode := by obtain ⟨d, rfl⟩ := h; rfl

theorem slots (h : s.SameButDrops t) : t.slots = s.slots := by obtain ⟨d, rfl⟩ := h; rfl

theorem queue (h : s.SameButDrops t) : t.queue = s.queue := by obtain ⟨d, rfl⟩ := h; rfl

theorem faults (h : s.SameButDrops t) : t.faults = s.faults := by obtain ⟨d, rfl⟩ := h; rfl

theorem readBuffer (h : s.SameButDrops t) (buf : Ref) (n : Nat) : t.readBuffer buf n = s.readBuffer buf n := by
  obtain ⟨d, rfl⟩ := h; rfl

theorem slot? (h : s.SameButDrops t) (n : Nat) : t.slot? n = s.slot? n := State.slot?_congr t s n h.slots

theorem liveSlot? (h : s.SameButDrops t) (n : Nat) : t.liveSlot? n = s.liveSlot? n := State.liveSlot?_congr t s n h.slots

theorem chooseSlot (h : s.SameButDrops t) : t.chooseSlot = s.chooseSlot := by obtain ⟨d, rfl⟩ := h; rfl

/-! ### What is written -/

theorem respond (h : s.SameButDrops t) (r : Response) : (s.respond r).SameButDrops (t.respond r) := by
  obtain ⟨d, rfl⟩ := h; exact ⟨d, rfl⟩

theorem recordFault (h : s.SameButDrops t) (r : FaultReason) : (s.recordFault r).SameButDrops (t.recordFault r) := by
  obtain ⟨d, rfl⟩ := h; exact ⟨d, rfl⟩

theorem drawn (h : s.SameButDrops t) (n : Nat) : (s.drawn n).SameButDrops (t.drawn n) := by
  obtain ⟨d, rfl⟩ := h; exact ⟨d, rfl⟩

/-- The new labels go behind the old ones, which nothing reads. -/
theorem deliver (h : s.SameButDrops t) (n : Nat) (p : Slot) (ls : List Label) :
    (s.deliver n p ls).SameButDrops (t.deliver n p ls) := by
  obtain ⟨d, rfl⟩ := h; exact ⟨_, rfl⟩

theorem updateSlot (h : s.SameButDrops t) (n : Nat) (g : Slot → Slot) :
    (s.updateSlot n g).SameButDrops (t.updateSlot n g) := by
  obtain ⟨d, rfl⟩ := h; cases n <;> exact ⟨d, rfl⟩

theorem writeFrame (h : s.SameButDrops t) (out : Ref) (frame : List Byte) :
    (s.writeFrame out frame).SameButDrops (t.writeFrame out frame) := by
  obtain ⟨d, rfl⟩ := h; cases out <;> exact ⟨d, rfl⟩

theorem scribble (h : s.SameButDrops t) (out : Ref) (cap : Len) :
    (s.scribble out cap).SameButDrops (t.scribble out cap) := by
  obtain ⟨d, rfl⟩ := h; cases out <;> exact ⟨d, rfl⟩

theorem feedSlot (h : s.SameButDrops t) (n : Nat) (p : Slot) (bs : List Byte) :
    (s.feedSlot n p bs).SameButDrops (t.feedSlot n p bs) := by
  rw [State.feedSlot, State.feedSlot, h.rom, h.feedMode]
  exact ((h.updateSlot n _).deliver n p _).respond _

theorem retire (h : s.SameButDrops t) (n : Nat) (l : Label) : (s.retire n l).SameButDrops (t.retire n l) := by
  rw [State.retire, State.retire, h.liveSlot?]
  cases s.liveSlot? n with
  | none => exact h.recordFault _
  | some p => exact h.deliver n p [l]

end State.SameButDrops

/-! ### Commands and steps -/

/-- Outcomes that differ in drop labels alone: both a next state, or both the same fault. -/
inductive SameOutcomeButDrops : Host.Outcome State Fault Refusal → Host.Outcome State Fault Refusal → Prop where
  | next {s t : State} (h : s.SameButDrops t) : SameOutcomeButDrops (.next s) (.next t)
  | fault (r : Fault) : SameOutcomeButDrops (.fault r) (.fault r)

/-- A test with the same result on both sides. -/
theorem SameOutcomeButDrops.ite {c : Prop} [Decidable c] {a b a' b' : Host.Outcome State Fault Refusal}
    (ha : SameOutcomeButDrops a a') (hb : SameOutcomeButDrops b b') :
    SameOutcomeButDrops (if c then a else b) (if c then a' else b') := by
  split
  · exact ha
  · exact hb

theorem SameOutcomeButDrops.exists_of_next {s : State} {o : Host.Outcome State Fault Refusal}
    (h : SameOutcomeButDrops (.next s) o) : ∃ t, o = .next t ∧ s.SameButDrops t := by
  cases h with
  | next h => exact ⟨_, rfl, h⟩

theorem State.SameButDrops.exec {s t : State} (h : s.SameButDrops t) (i : Instr) :
    SameOutcomeButDrops (exec i s) (exec i t) := by
  cases i with
  | ck8 buf n =>
    simp only [Machine.exec, execCk8, h.rom, h.readBuffer]
    exact .ite (.next (h.respond _)) (.next (h.respond _))
  | ck16 buf n =>
    simp only [Machine.exec, execCk16, h.rom, h.readBuffer]
    exact .ite (.next (h.respond _)) (.next (h.respond _))
  | decode buf n =>
    simp only [Machine.exec, execDecode, h.readBuffer]
    exact .ite (.next (h.respond _)) (.next (h.respond _))
  | build out cap st si rt ri seq pt ack enc cls mid pay n =>
    simp only [Machine.exec, execBuild, h.rom, h.readBuffer]
    exact .ite (.next (h.recordFault _))
      (.ite (.next ((h.scribble out cap).respond _)) (.next ((h.writeFrame out _).respond _)))
  | create cb ctx =>
    simp only [Machine.exec, execCreate, h.chooseSlot]
    refine .ite (.next (h.respond _)) ?_
    cases s.chooseSlot with
    | none => exact .next (h.respond _)
    | some n => exact .next (((h.updateSlot n _).drawn 1).respond _)
  | feed n buf k =>
    simp only [Machine.exec, execFeed, h.liveSlot?, h.readBuffer]
    refine .ite (.next (h.respond _)) ?_
    cases s.liveSlot? n with
    | none => exact .next (h.recordFault _)
    | some p => exact .next (h.feedSlot n p _)
  | reset n =>
    simp only [Machine.exec, execReset, h.liveSlot?]
    refine .ite (.next (h.respond _)) ?_
    cases s.liveSlot? n with
    | none => exact .next (h.recordFault _)
    | some p => exact .next ((h.updateSlot n _).respond _)
  | destroy n =>
    simp only [Machine.exec, execDestroy, h.slot?]
    refine .ite (.next (h.respond _)) ?_
    cases s.slot? n with
    | none => exact .next (h.recordFault _)
    | some p =>
      cases hlive : p.live with
      | true => simpa only [hlive] using .next ((h.updateSlot n _).respond _)
      | false => simpa only [hlive] using .next (h.respond _)
  | rcPush n f => exact .next (h.retire n _)
  | enable n f => exact .next (h.retire n _)
  | channelRequest n f => exact .next (h.retire n _)
  | other n f => exact .next (h.retire n _)

theorem State.SameButDrops.runCommand {s t : State} (h : s.SameButDrops t) (c : HostCommand) :
    SameOutcomeButDrops (s.runCommand c) (t.runCommand c) := by
  cases hdecode : decode .command c.bytes with
  | error e =>
    have hbad : ∀ i, decode .command c.bytes ≠ .ok i := by simp [hdecode]
    rw [runCommand_of_not_decodes s hbad, runCommand_of_not_decodes t hbad]
    exact .next (h.recordFault _)
  | ok i =>
    cases hissue : issueFault c.issue i with
    | some r =>
      rw [runCommand_of_issueFault s hdecode hissue, runCommand_of_issueFault t hdecode hissue]
      exact .next (h.recordFault r)
    | none =>
      rw [runCommand_of_decode_ok s hdecode hissue, runCommand_of_decode_ok t hdecode hissue]
      exact h.exec i

theorem State.SameButDrops.withQueue {s t : State} (h : s.SameButDrops t) (q : List HostCommand) :
    State.SameButDrops { s with queue := q } { t with queue := q } := by
  obtain ⟨d, rfl⟩ := h; exact ⟨d, rfl⟩

/-- 60_exceptions R274: a step stops or answers a next state alike, whatever the drop labels. -/
theorem State.SameButDrops.step {s t : State} (h : s.SameButDrops t) : SameOutcomeButDrops (step s) (step t) := by
  by_cases hfaults : s.faults = []
  · have hfaults' : t.faults = [] := h.faults.trans hfaults
    cases hqueue : s.queue with
    | nil =>
      rw [step_of_queue_nil hfaults hqueue, step_of_queue_nil hfaults' (h.queue.trans hqueue)]
      exact .next h
    | cons c rest =>
      rw [step_of_queue_cons hfaults hqueue, step_of_queue_cons hfaults' (h.queue.trans hqueue)]
      exact (h.withQueue rest).runCommand c
  · rw [step_of_faults_ne_nil hfaults, step_of_faults_ne_nil (h.faults ▸ hfaults)]
    exact .fault .quiescent

/-- Settles O54: a state with another drop trace is the same but for the drop labels, and so is what it steps to. -/
theorem dropLabelsAreUnobservable : Obligations.DropLabelsAreUnobservable := by
  intro s t d hstep
  have h : s.SameButDrops { s with drops := d } := ⟨d, rfl⟩
  have hsteps := h.step
  rw [hstep] at hsteps
  obtain ⟨t', ht', d', rfl⟩ := hsteps.exists_of_next
  exact ⟨d', ht'⟩

end Sys2Proof.Machine
end

section
/-! RESET of a slot (70_reset R312), completion of every command (60_exceptions R331), and power-on (70_reset R310). -/

namespace Sys2Proof.Machine

/-! ### RESET (43_parser R218, 70_reset R312) -/

theorem exec_reset_of_live {s : State} {h : Nat} {p : Slot} (hp : s.slot? h = some p) (hlive : p.live = true) :
    exec (.reset h) s = .next ((s.updateSlot h Slot.clear).respond .done) := by
  have hlive? : s.liveSlot? h = some p := (State.liveSlot?_eq_some s h p).mpr ⟨hp, hlive⟩
  simp [exec, execReset, State.ne_zero_of_slot?_eq_some hp, hlive?]

/-- Settles O28: RESET of a LIVE slot clears that slot and gives the response, and the NULL check comes first. -/
theorem resetReturnsToSeeking : Obligations.ResetReturnsToSeeking := by
  refine fun s h p => ⟨fun hp hlive => ?_, rfl⟩
  refine ⟨_, exec_reset_of_live hp hlive, ?_, fun h' hne => ?_, ?_⟩
  · rw [State.respond_slot?, State.slot?_updateSlot_self, hp]
    rfl
  · rw [State.respond_slot?, State.slot?_updateSlot_other s h h' _ hne]
  · simp

/-! ### Every command completes (60_exceptions R331) -/

/-- The outcome is a next state: neither a fault nor a refusal. -/
def Completes (o : Host.Outcome State Fault Refusal) : Prop := ∃ t, o = .next t

theorem completes_next (t : State) : Completes (.next t) := ⟨t, rfl⟩

/-- A test completes where both of its branches do. -/
theorem Completes.ite {c : Prop} [Decidable c] {a b : Host.Outcome State Fault Refusal} (ha : Completes a)
    (hb : Completes b) : Completes (if c then a else b) := by
  split
  · exact ha
  · exact hb

/-- Settles O48: every branch of every command, and of every dispatch row, ends in a next state. -/
theorem everyInstructionCompletes : Obligations.EveryInstructionCompletes := by
  intro i s
  cases i with
  | ck8 buf n => exact Completes.ite (completes_next _) (completes_next _)
  | ck16 buf n => exact Completes.ite (completes_next _) (completes_next _)
  | decode buf n => exact Completes.ite (completes_next _) (completes_next _)
  | build out cap st si rt ri seq pt ack enc cls mid pay n =>
    exact Completes.ite (completes_next _) (.ite (completes_next _) (completes_next _))
  | create cb ctx => exact Completes.ite (completes_next _) (by cases s.chooseSlot <;> exact completes_next _)
  | feed h buf n => exact Completes.ite (completes_next _) (by cases s.liveSlot? h <;> exact completes_next _)
  | reset h => exact Completes.ite (completes_next _) (by cases s.liveSlot? h <;> exact completes_next _)
  | destroy h => exact Completes.ite (completes_next _) (by cases s.slot? h <;> exact completes_next _)
  | rcPush h f => exact completes_next _
  | enable h f => exact completes_next _
  | channelRequest h f => exact completes_next _
  | other h f => exact completes_next _

/-! ### Power-on (70_reset R310) -/

theorem eq_free_of_mem_reset_slots {p : Slot} (hp : p ∈ State.reset.slots) : p = Slot.free :=
  List.eq_of_mem_replicate hp

/-- A FREE slot of power-on has an empty ring, and the invariant asks nothing of its registers. -/
theorem Slot.free_ok : Slot.free.Ok :=
  ⟨⟨rfl, fun _ hc => absurd hc List.not_mem_nil⟩, fun hlive => absurd hlive Bool.false_ne_true⟩

/-- Settles O56: host memory is empty at power-on, and every slot is FREE. -/
theorem powerOnMeetsTheInvariant : Obligations.PowerOnMeetsTheInvariant := by
  refine ⟨rfl, fun p hp => ?_⟩
  rw [eq_free_of_mem_reset_slots hp]
  exact Slot.free_ok

/-- Settles O57: every slot of power-on is the FREE one, and the configuration has a slot. -/
theorem powerOnState : Obligations.PowerOnState := by
  refine ⟨fun p hp => ?_, rfl, rfl, ?_⟩
  · rw [eq_free_of_mem_reset_slots hp]
    rfl
  · decide

end Sys2Proof.Machine
end
